-- ==== Sys2Proof/Word.lean ====
section
/-! DEFINITION. The block's data types: a byte, a command identifier, a handler identity (00_scope.md R12, R17, R9). -/

namespace Sys2Proof

/-- 00_scope.md R12: a byte, u8. -/
abbrev Byte := BitVec 8

/-- 00_scope.md R17, 10_state.md R21: a command identifier, an ordered pair of bytes when CMD_WIDTH = 2. When
CMD_WIDTH = 1 the identifier is `first` alone and `second` is 0 (DESIGN CHOICE, safe: notes/assumptions/4.md). -/
structure CmdId where
  first  : Byte
  second : Byte
  deriving DecidableEq, Repr

/-- 00_scope.md R9, 92 D24: a handler's identity. A natural number names a value of the instance's type `HandlerId`, which is
the parameter `Config.handlerType` (DESIGN CHOICE, safe: notes/assumptions/3.md). -/
abbrev HandlerId := Nat

end Sys2Proof
end

