-- ==== Sys2Proof/Config.lean ====
section
/-! DEFINITION. The implementation parameters of an instance of the block (00_scope.md R9), their defaults, and the free values. -/

namespace Sys2Proof

/-- 00_scope.md R3: CMD_WIDTH, bytes per command identifier. -/
inductive CmdWidth where
  | one
  | two
  deriving DecidableEq, Repr

/-- 00_scope.md R9: LEN_POLICY. -/
inductive LenPolicy where
  | clamp
  | reject
  deriving DecidableEq, Repr

/-- 00_scope.md R9: CASE_FOLD, used only when CMD_WIDTH = 2. -/
inductive CaseFold where
  | upper
  | lower
  deriving DecidableEq, Repr

/-- 00_scope.md R9, 92 D24: the parameter `HandlerId`, "any type with decidable equality", up to the names of its values: a type
of `n` values, or one without end. `HandlerType.has` says which names have a value. (DESIGN CHOICE, safe:
notes/assumptions/3.md.) -/
inductive HandlerType where
  | finite (n : Nat)
  | unbounded
  deriving DecidableEq, Repr

/-- The name stands for a value of the type. -/
def HandlerType.has : HandlerType → HandlerId → Bool
  | .finite n, h => decide (h < n)
  | .unbounded, _ => true

/-- 00_scope.md R9: the configuration of one instance, fixed for its lifetime (10_state.md R33). -/
structure Config where
  /-- CMD_WIDTH -/
  cmdWidth   : CmdWidth
  /-- CAP (COMMAND_BUFFER_LEN) -/
  cap        : Nat
  /-- MAX_PAYLOAD_SIZE -/
  maxPayload : Nat
  /-- T_STALE, in clock ticks -/
  tStale     : Nat
  /-- CLOCK_WIDTH, in bits -/
  clockWidth : Nat
  /-- STX -/
  stx        : Byte
  /-- ETX -/
  etx        : Byte
  /-- NO_CMD -/
  noCmd      : CmdId
  /-- INVALID_CMD -/
  invalidCmd : CmdId
  /-- LEN_POLICY -/
  lenPolicy  : LenPolicy
  /-- CASE_FOLD -/
  caseFold   : CaseFold
  /-- HandlerId -/
  handlerType : HandlerType
  /-- TX_LEN_WIDTH, in bits -/
  txLenWidth : Nat
  deriving DecidableEq, Repr

/-- 00_scope.md R9: the default configuration (CMD_WIDTH = 1). -/
def Config.default : Config where
  cmdWidth   := .one
  cap        := 128
  maxPayload := 128
  tStale     := 10
  clockWidth := 32
  stx        := 0x02#8
  etx        := 0x03#8
  noCmd      := ⟨0x00#8, 0x00#8⟩
  invalidCmd := ⟨0xFF#8, 0x00#8⟩
  lenPolicy  := .clamp
  caseFold   := .upper
  handlerType := .unbounded
  txLenWidth := 16

/-- 00_scope.md R9: the defaults of the 2-character variant (CMD_WIDTH = 2), whose NO_CMD and INVALID_CMD are pairs. -/
def Config.defaultWide : Config :=
  { Config.default with cmdWidth := .two, invalidCmd := ⟨0xFF#8, 0xFF#8⟩ }

/-- FREE VALUE (43_control.md R100 "RB is left unspecified (any bytes)", 10_state.md R25, 92 D15): the byte that RESET number
`k` leaves at index `a` of the receive buffer. No body: no proof can use a value of it. (notes/assumptions/9.md) -/
opaque Config.freeRbByte : Nat → Nat → Byte

end Sys2Proof
end

