-- ==== Sys2Proof/Syntax.lean ====
section
/-! DEFINITION. The parser's states (30_encoding.md R59) and the operations of the block: one constructor per row of
spec/opcode_table.json (30_encoding.md R60, R61; 41_dispatch.md R84). -/

namespace Sys2Proof

/-- 10_state.md R19, 30_encoding.md R59: what the 3-bit register `st` holds. The codes 0b101 to 0b111 are not states
(R62); `notState k` is the code 5 + k, kept so that a FEED that finds one can raise `Fault(BadState)`
(DESIGN CHOICE, safe: notes/assumptions/10.md). -/
inductive ParserState where
  | awaitingStart
  | awaitingCommand
  | awaitingLength
  | awaitingPayload
  | awaitingEnd
  | notState (k : Fin 3)
  deriving DecidableEq, Repr

/-- The operations. The first eight are the host's operation records (30_encoding.md R60). The `feed…` constructors are the
rows of the parser's byte decode (R61), which FEED performs; a row carries the byte where its mask leaves the byte open.
`dispatch` is 41_dispatch.md R84, which only END performs. The host can issue neither kind. -/
inductive Instr where
  /-- FEED: the received byte and the clock sample (40_parser.md R66). -/
  | feed (c : Byte) (now : Nat)
  /-- REGISTER (41_dispatch.md R90). -/
  | register (id : CmdId) (h : HandlerId)
  /-- SEND (42_encoder.md R93): `payload = none` is `present = 0`, `some p` is `present = 1` with the sequence p
  (DEDUCED, safe: notes/assumptions/23.md). -/
  | send (id : CmdId) (n : Nat) (payload : Option (List Byte))
  /-- HANDLER_RETURN (41_dispatch.md R92). -/
  | handlerReturn
  /-- RESET (43_control.md R100). -/
  | reset
  /-- STATUS_READ (43_control.md R101). -/
  | statusRead
  /-- RESERVED_110 (30_encoding.md R62). -/
  | reserved110
  /-- RESERVED_111 (30_encoding.md R62). -/
  | reserved111
  /-- FEED.START, row 1 (40_parser.md R71). -/
  | feedStart
  /-- FEED.IGNORE, row 2 (40_parser.md R71). -/
  | feedIgnore (c : Byte)
  /-- FEED.CMD_BYTE, row 3 when CMD_WIDTH = 1 (40_parser.md R72). -/
  | feedCmdByte (c : Byte)
  /-- FEED.CMD_CHAR, row 3 when CMD_WIDTH = 2 (40_parser.md R73). -/
  | feedCmdChar (c : Byte)
  /-- FEED.LEN_ZERO, row 4 (40_parser.md R75). -/
  | feedLenZero
  /-- FEED.LEN_MAX, row 5 (40_parser.md R74). -/
  | feedLenMax
  /-- FEED.LEN_SMALL, row 6 (40_parser.md R74). -/
  | feedLenSmall (c : Byte)
  /-- FEED.LEN_TOO_LARGE, row 7 (40_parser.md R74). -/
  | feedLenTooLarge (c : Byte)
  /-- FEED.PAYLOAD_BYTE, row 8 (40_parser.md R76). -/
  | feedPayloadByte (c : Byte)
  /-- FEED.END, row 9 (40_parser.md R77). -/
  | feedEnd
  /-- FEED.RESYNC, row 10 (40_parser.md R78). -/
  | feedResync
  /-- FEED.END_ABORT, row 11 (40_parser.md R79). -/
  | feedEndAbort (c : Byte)
  /-- DISPATCH of a completed frame's identifier and length (41_dispatch.md R84). -/
  | dispatch (cmd : CmdId) (n : Byte)
  deriving DecidableEq, Repr

end Sys2Proof
end

