-- ==== Sys2Proof/WellFormed.lean ====
section
/-! DEFINITION. Which configurations and which operations are well-formed (00_scope.md R9, R10; the operand ranges of
30_encoding.md R60 and the byte conditions of R61). -/

namespace Sys2Proof

/-- 10_state.md R21: the identifier has the instance's width (at width 1 the second byte is not part of it and is 0). -/
def CmdId.fits (w : CmdWidth) (id : CmdId) : Bool :=
  match w with
  | .one => id.second == 0#8
  | .two => true

/-- 00_scope.md R9 (legal values) and R10 (constraints): an instance may be built from this configuration.
(DEDUCED, safe: notes/assumptions/11.md.) -/
def Config.wf (cfg : Config) : Bool :=
  cfg.stx != cfg.etx
    && (decide (1 ≤ cfg.cap) && decide (cfg.cap ≤ 255))
    && decide (cfg.maxPayload ≤ 255)
    && cfg.noCmd != cfg.invalidCmd
    && decide (1 ≤ cfg.clockWidth)
    && decide (8 ≤ cfg.txLenWidth)
    && cfg.noCmd.fits cfg.cmdWidth
    && cfg.invalidCmd.fits cfg.cmdWidth

/-- The operation is one the host can issue as a record (30_encoding.md R60). -/
def Instr.isRecord : Instr → Bool
  | .feed _ _ | .register _ _ | .send _ _ _ | .handlerReturn | .reset | .statusRead | .reserved110 | .reserved111 => true
  | .feedStart | .feedIgnore _ | .feedCmdByte _ | .feedCmdChar _ | .feedLenZero | .feedLenMax | .feedLenSmall _
  | .feedLenTooLarge _ | .feedPayloadByte _ | .feedEnd | .feedResync | .feedEndAbort _ | .dispatch _ _ => false

/-- The operation is a row of the parser's byte decode (30_encoding.md R61). -/
def Instr.isRow : Instr → Bool
  | .feed _ _ | .register _ _ | .send _ _ _ | .handlerReturn | .reset | .statusRead | .reserved110 | .reserved111
  | .dispatch _ _ => false
  | .feedStart | .feedIgnore _ | .feedCmdByte _ | .feedCmdChar _ | .feedLenZero | .feedLenMax | .feedLenSmall _
  | .feedLenTooLarge _ | .feedPayloadByte _ | .feedEnd | .feedResync | .feedEndAbort _ => true

/-- The operands are in the ranges of 30_encoding.md R60, the byte meets its row's condition (R61), and DISPATCH's length
fits the buffer (41_dispatch.md R84). A handler identity is one of the instance's type `HandlerId` (00_scope.md R9). -/
def Instr.wf (cfg : Config) : Instr → Bool
  | .feed _ now => decide (now < 2 ^ cfg.clockWidth)
  | .register id h => id.fits cfg.cmdWidth && cfg.handlerType.has h
  | .send id n _ => id.fits cfg.cmdWidth && decide (n < 2 ^ cfg.txLenWidth)
  | .handlerReturn => true
  | .reset => true
  | .statusRead => true
  | .reserved110 => true
  | .reserved111 => true
  | .feedStart => true
  | .feedIgnore c => c != cfg.stx
  | .feedCmdByte _ => cfg.cmdWidth == .one
  | .feedCmdChar _ => cfg.cmdWidth == .two
  | .feedLenZero => true
  | .feedLenMax => true
  | .feedLenSmall c => decide (1 ≤ c.toNat) && decide (c.toNat < cfg.cap)
  | .feedLenTooLarge c => decide (cfg.cap < c.toNat)
  | .feedPayloadByte _ => true
  | .feedEnd => true
  | .feedResync => true
  | .feedEndAbort c => c != cfg.etx && c != cfg.stx
  | .dispatch cmd n => cmd.fits cfg.cmdWidth && decide (n.toNat ≤ cfg.cap)

end Sys2Proof
end

