-- ==== Sys2Proof/Decode.lean ====
section
/-! DEFINITION. The three encodings: the state code (30_encoding.md R59), the parser's byte decode (R61), and the operation
record (R60); the decoders, total on any bytes, and after them the encoder. -/

namespace Sys2Proof

/-! ### Fields of a record (the model's record layout, DESIGN CHOICE: notes/assumptions/2.md) -/

/-- The low `k` bytes of `v`, least significant first. -/
def leBytes : Nat → Nat → List Byte
  | 0, _ => []
  | k + 1, v => BitVec.ofNat 8 v :: leBytes k (v / 256)

/-- How many whole bytes hold a field of `bits` bits. -/
def bytesFor (bits : Nat) : Nat := (bits + 7) / 8

/-- A number of any size, in groups of 7 bits, least significant first; bit 7 of a byte says that another follows. The first
argument bounds the groups; `numBytes` gives enough. -/
def numGroups : Nat → Nat → List Byte
  | 0, v => [BitVec.ofNat 8 v]
  | k + 1, v => if v < 128 then [BitVec.ofNat 8 v] else BitVec.ofNat 8 (128 + v % 128) :: numGroups k (v / 128)

/-- A number that has no width of its own: a handler's name, the count of SEND's sequence. -/
def numBytes (v : Nat) : List Byte := numGroups v v

/-- Why bytes are no operation record or no parser key. -/
inductive DecodeError where
  /-- the bytes end inside the record -/
  | truncated
  /-- bits 7:3 of the selector byte are not 0 -/
  | selectorPadding
  /-- the clock sample needs more than CLOCK_WIDTH bits -/
  | clockTooWide
  /-- the handler's name is none of the instance's type `HandlerId` -/
  | notAHandler
  /-- the `present` byte is neither 0 nor 1 -/
  | presentNotABit
  /-- the requested length needs more than TX_LEN_WIDTH bits -/
  | lengthTooWide
  /-- bits 15:11 of a parser key's two bytes are not 0 -/
  | keyPadding
  /-- the key's state code is 0b101, 0b110 or 0b111 (30_encoding.md R62) -/
  | notAState
  deriving DecidableEq, Repr

def takeByte : List Byte → Except DecodeError (Byte × List Byte)
  | [] => .error .truncated
  | b :: bs => .ok (b, bs)

/-- Reads a field of `k` bytes, least significant first. -/
def takeLe : Nat → List Byte → Except DecodeError (Nat × List Byte)
  | 0, bs => .ok (0, bs)
  | _ + 1, [] => .error .truncated
  | k + 1, b :: bs =>
    match takeLe k bs with
    | .error e => .error e
    | .ok (v, rest) => .ok (b.toNat + 256 * v, rest)

/-- Reads what `numBytes` writes. -/
def takeNum : List Byte → Except DecodeError (Nat × List Byte)
  | [] => .error .truncated
  | b :: bs =>
    if b.toNat < 128 then .ok (b.toNat, bs)
    else
      match takeNum bs with
      | .error e => .error e
      | .ok (v, rest) => .ok (b.toNat - 128 + 128 * v, rest)

def takeBytes (k : Nat) (bs : List Byte) : Except DecodeError (List Byte × List Byte) :=
  if bs.length < k then .error .truncated else .ok (bs.take k, bs.drop k)

/-- 30_encoding.md R53: `first` then, when CMD_WIDTH = 2, `second`. -/
def takeCmdId : CmdWidth → List Byte → Except DecodeError (CmdId × List Byte)
  | .one, b :: bs => .ok (⟨b, 0#8⟩, bs)
  | .two, b₁ :: b₂ :: bs => .ok (⟨b₁, b₂⟩, bs)
  | _, _ => .error .truncated

/-! ### The operation record (30_encoding.md R60) -/

def decodeFeed (cfg : Config) (bs : List Byte) : Except DecodeError (Instr × List Byte) :=
  match takeByte bs with
  | .error e => .error e
  | .ok (c, bs) =>
    match takeLe (bytesFor cfg.clockWidth) bs with
    | .error e => .error e
    | .ok (now, bs) => if now < 2 ^ cfg.clockWidth then .ok (.feed c now, bs) else .error .clockTooWide

def decodeRegister (cfg : Config) (bs : List Byte) : Except DecodeError (Instr × List Byte) :=
  match takeCmdId cfg.cmdWidth bs with
  | .error e => .error e
  | .ok (id, bs) =>
    match takeNum bs with
    | .error e => .error e
    | .ok (h, bs) => if cfg.handlerType.has h then .ok (.register id h, bs) else .error .notAHandler

/-- SEND's supplied sequence: its count, then that many bytes. The spec bounds neither (42_encoder.md R93). -/
def decodePayload (bs : List Byte) : Except DecodeError (List Byte × List Byte) :=
  match takeNum bs with
  | .error e => .error e
  | .ok (k, bs) => takeBytes k bs

def decodeSend (cfg : Config) (bs : List Byte) : Except DecodeError (Instr × List Byte) :=
  match takeCmdId cfg.cmdWidth bs with
  | .error e => .error e
  | .ok (id, bs) =>
    match takeByte bs with
    | .error e => .error e
    | .ok (present, bs) =>
      match takeLe (bytesFor cfg.txLenWidth) bs with
      | .error e => .error e
      | .ok (n, bs) =>
        if 2 ^ cfg.txLenWidth ≤ n then .error .lengthTooWide
        else if present = 0#8 then .ok (.send id n none, bs)
        else if present = 1#8 then
          match decodePayload bs with
          | .error e => .error e
          | .ok (p, bs) => .ok (.send id n (some p), bs)
        else .error .presentNotABit

/-- One operation record from the front of `bs`, and what follows it: the selector in bits 2:0 of the first byte, then the
operands in the order of R60's table. -/
def decodeRecord (cfg : Config) : List Byte → Except DecodeError (Instr × List Byte)
  | [] => .error .truncated
  | sel :: bs =>
    match sel.toNat with
    | 0 => decodeFeed cfg bs
    | 1 => decodeRegister cfg bs
    | 2 => decodeSend cfg bs
    | 3 => .ok (.handlerReturn, bs)
    | 4 => .ok (.reset, bs)
    | 5 => .ok (.statusRead, bs)
    | 6 => .ok (.reserved110, bs)
    | 7 => .ok (.reserved111, bs)
    | _ => .error .selectorPadding

/-! ### The state code (30_encoding.md R59) and the parser's byte decode (R61) -/

/-- 30_encoding.md R59. -/
def ParserState.code : ParserState → BitVec 3
  | .awaitingStart => 0b000#3
  | .awaitingCommand => 0b001#3
  | .awaitingLength => 0b010#3
  | .awaitingPayload => 0b011#3
  | .awaitingEnd => 0b100#3
  | .notState k => BitVec.ofNat 3 (5 + k.val)

/-- The state, or the code that is no state, of a 3-bit code (30_encoding.md R59, R62). -/
def ParserState.ofCode (b : BitVec 3) : ParserState :=
  match b.toNat with
  | 0 => .awaitingStart
  | 1 => .awaitingCommand
  | 2 => .awaitingLength
  | 3 => .awaitingPayload
  | 4 => .awaitingEnd
  | 5 => .notState 0
  | 6 => .notState 1
  | _ => .notState 2

/-- 30_encoding.md R61: one row of the parser's byte decode. It matches a key whose state is `st` and whose byte is in
`lo … hi`; `row c` is the operation it stands for. -/
structure KeyRow where
  st  : ParserState
  lo  : Nat
  hi  : Nat
  row : Byte → Instr

/-- 30_encoding.md R61: the rows in order, the byte conditions taken from the configuration ("For other values, replace the
byte and the ranges in the same positions"). Row 3 is CMD_BYTE or CMD_CHAR by CMD_WIDTH. -/
def keyRows (cfg : Config) : List KeyRow :=
  [ ⟨.awaitingStart, cfg.stx.toNat, cfg.stx.toNat, fun _ => .feedStart⟩,
    ⟨.awaitingStart, 0, 255, .feedIgnore⟩,
    ⟨.awaitingCommand, 0, 255, match cfg.cmdWidth with | .one => .feedCmdByte | .two => .feedCmdChar⟩,
    ⟨.awaitingLength, 0, 0, fun _ => .feedLenZero⟩,
    ⟨.awaitingLength, cfg.cap, cfg.cap, fun _ => .feedLenMax⟩,
    ⟨.awaitingLength, 0, cfg.cap - 1, .feedLenSmall⟩,
    ⟨.awaitingLength, cfg.cap, 255, .feedLenTooLarge⟩,
    ⟨.awaitingPayload, 0, 255, .feedPayloadByte⟩,
    ⟨.awaitingEnd, cfg.etx.toNat, cfg.etx.toNat, fun _ => .feedEnd⟩,
    ⟨.awaitingEnd, cfg.stx.toNat, cfg.stx.toNat, fun _ => .feedResync⟩,
    ⟨.awaitingEnd, 0, 255, .feedEndAbort⟩ ]

def KeyRow.hits (r : KeyRow) (st : ParserState) (c : Byte) : Bool :=
  r.st == st && decide (r.lo ≤ c.toNat) && decide (c.toNat ≤ r.hi)

/-- 30_encoding.md R61: the first row that matches the state and the byte. -/
def decodeKey (cfg : Config) (st : ParserState) (c : Byte) : Option Instr :=
  match (keyRows cfg).find? (fun r => r.hits st c) with
  | some r => some (r.row c)
  | none => none

/-- 30_encoding.md R61: the key `st[2:0] ++ c[7:0]`. -/
def keyOf (st : ParserState) (c : Byte) : BitVec 11 := st.code ++ c

/-- The operation of an 11-bit key. -/
def decodeKeyBits (cfg : Config) (key : BitVec 11) : Option Instr :=
  decodeKey cfg (ParserState.ofCode (key.extractLsb' 8 3)) (key.extractLsb' 0 8)

/-- A parser key laid out in two bytes as opcode_table.json numbers its bits: `c` in the first, the state code in bits 2:0
of the second. -/
def decodeKeyBytes (cfg : Config) : List Byte → Except DecodeError (Instr × List Byte)
  | c :: hi :: bs =>
    if 8 ≤ hi.toNat then .error .keyPadding
    else
      match decodeKey cfg (ParserState.ofCode (BitVec.ofNat 3 hi.toNat)) c with
      | some i => .ok (i, bs)
      | none => .error .notAState
  | _ => .error .truncated

/-- 30_encoding.md R61's column "key match / mask (defaults)", as printed: match, mask and row, in order, for
CMD_WIDTH = 1. -/
def defaultKeyMasks : List (BitVec 11 × BitVec 11 × (Byte → Instr)) :=
  [ (0x002#11, 0x7FF#11, fun _ => .feedStart),
    (0x000#11, 0x700#11, .feedIgnore),
    (0x100#11, 0x700#11, .feedCmdByte),
    (0x200#11, 0x7FF#11, fun _ => .feedLenZero),
    (0x280#11, 0x7FF#11, fun _ => .feedLenMax),
    (0x200#11, 0x780#11, .feedLenSmall),
    (0x280#11, 0x780#11, .feedLenTooLarge),
    (0x300#11, 0x700#11, .feedPayloadByte),
    (0x403#11, 0x7FF#11, fun _ => .feedEnd),
    (0x402#11, 0x7FF#11, fun _ => .feedResync),
    (0x400#11, 0x700#11, .feedEndAbort) ]

/-- The first row of `defaultKeyMasks` that matches the key. -/
def decodeKeyByMasks (key : BitVec 11) : Option Instr :=
  match defaultKeyMasks.find? (fun r => key &&& r.2.1 == r.1) with
  | some r => some (r.2.2 (key.extractLsb' 0 8))
  | none => none

/-! ### Words as opcode_table.json numbers them -/

/-- Zero bytes enough for every operand of a record whose operand bytes are all 0. -/
def zeroOperands (cfg : Config) : List Byte :=
  List.replicate (4 + bytesFor cfg.clockWidth + bytesFor cfg.txLenWidth) 0#8

/-- The bytes of a table word: a selector row is one byte and its operand bytes are 0; a parser-key row is two bytes. -/
def tableBytes (cfg : Config) (nbits w : Nat) : List Byte :=
  if nbits ≤ 8 then leBytes 1 w ++ zeroOperands cfg else leBytes 2 w

/-- What this instance reads from a table word. -/
def decodeTableWordFor (cfg : Config) (nbits w : Nat) : Option Instr :=
  match (if nbits ≤ 8 then decodeRecord cfg (tableBytes cfg nbits w) else decodeKeyBytes cfg (tableBytes cfg nbits w)) with
  | .ok (i, _) => some i
  | .error _ => none

/-- What an instance with the default configuration reads from a table word. The words that two rows share:
notes/assumptions/15.md. -/
def decodeTableWord (nbits w : Nat) : Option Instr := decodeTableWordFor Config.default nbits w

/-! ### The encoder -/

/-- 00_scope.md R16: the bytes of a command identifier. -/
def cmdbytes (w : CmdWidth) (id : CmdId) : List Byte :=
  match w with
  | .one => [id.first]
  | .two => [id.first, id.second]

/-- The two bytes of the parser key of state `st` and byte `c`. -/
def keyBytes (st : ParserState) (c : Byte) : List Byte := [c, st.code.setWidth 8]

/-- SEND's `present` byte. -/
def presentByte : Option (List Byte) → Byte
  | none => 0#8
  | some _ => 1#8

/-- SEND's supplied sequence, counted; nothing when it is absent. -/
def payloadBytes : Option (List Byte) → List Byte
  | none => []
  | some p => numBytes p.length ++ p

/-- The bytes of an operation: a record (R60), or the key of a parser row (R61). DISPATCH has no encoding
(41_dispatch.md R84). -/
def encode (cfg : Config) : Instr → List Byte
  | .feed c now => 0#8 :: c :: leBytes (bytesFor cfg.clockWidth) now
  | .register id h => 1#8 :: (cmdbytes cfg.cmdWidth id ++ numBytes h)
  | .send id n payload =>
      2#8 :: (cmdbytes cfg.cmdWidth id
        ++ (presentByte payload :: (leBytes (bytesFor cfg.txLenWidth) n ++ payloadBytes payload)))
  | .handlerReturn => [3#8]
  | .reset => [4#8]
  | .statusRead => [5#8]
  | .reserved110 => [6#8]
  | .reserved111 => [7#8]
  | .feedStart => keyBytes .awaitingStart cfg.stx
  | .feedIgnore c => keyBytes .awaitingStart c
  | .feedCmdByte c => keyBytes .awaitingCommand c
  | .feedCmdChar c => keyBytes .awaitingCommand c
  | .feedLenZero => keyBytes .awaitingLength 0#8
  | .feedLenMax => keyBytes .awaitingLength (BitVec.ofNat 8 cfg.cap)
  | .feedLenSmall c => keyBytes .awaitingLength c
  | .feedLenTooLarge c => keyBytes .awaitingLength c
  | .feedPayloadByte c => keyBytes .awaitingPayload c
  | .feedEnd => keyBytes .awaitingEnd cfg.etx
  | .feedResync => keyBytes .awaitingEnd cfg.stx
  | .feedEndAbort c => keyBytes .awaitingEnd c
  | .dispatch _ _ => []

end Sys2Proof
end

