-- ==== Sys2Proof/Machine/State.lean ====
section
/-! DEFINITION. The state of the block (10_state.md), the events of its trace (R30), the reasons it refuses or faults
(60_exceptions.md R109, R111), and its reset state (10_state.md R32). Plain data. -/

namespace Sys2Proof.Machine

/-- 10_state.md R30: how DISPATCH found the handler. -/
inductive DispatchKind where
  | exact
  | fallback
  deriving DecidableEq, Repr

/-- 10_state.md R30: the events of the output trace. -/
inductive Event where
  /-- Dispatch(kind, h, cmd, n, p) -/
  | dispatch (kind : DispatchKind) (h : HandlerId) (cmd : CmdId) (n : Byte) (p : List Byte)
  /-- TooLarge(v) -/
  | tooLarge (v : Byte)
  /-- TxFrame(bytes) -/
  | txFrame (bytes : List Byte)
  deriving DecidableEq, Repr

/-- 60_exceptions.md R109: why an operation is refused. A refused operation answers a next state in which only the sticky
mark has changed (R110); see `Sys2Proof.Machine.refuse` and notes/assumptions/5.md. -/
inductive RefuseReason where
  /-- FEED while `in_handler` (40_parser.md R67) -/
  | feedDuringHandler
  /-- REGISTER while `in_handler` (41_dispatch.md R90) -/
  | registerDuringHandler
  /-- HANDLER_RETURN while no handler runs (41_dispatch.md R92) -/
  | returnWithoutHandler
  /-- SEND of a sequence shorter than the clamped length (42_encoder.md R98) -/
  | shortPayload
  /-- selector 0b110 or 0b111 (30_encoding.md R62) -/
  | reservedOp
  deriving DecidableEq, Repr

/-- 60_exceptions.md R111: the faults, a closed list. The run stops there (DEDUCED, safe: notes/assumptions/6.md). -/
inductive Fault where
  /-- Raised by the RB primitives for an index outside 0 … CAP-1 (20_memory.md R35, R36). Safe: the run stops; no state that
  meets the invariant of Safety.lean reaches it. -/
  | bufferIndex (a : Nat)
  /-- Raised by FEED when `st` holds a code that is not a state (30_encoding.md R62). Safe: the run stops; no state that
  meets the invariant of Safety.lean reaches it. -/
  | badState
  deriving DecidableEq, Repr

/-- Why the model gives no next state though nothing of the block faulted. -/
inductive Refusal where
  /-- An operation without a meaning in this model. Raised by no arm of `exec`. Safe. -/
  | notModelled (mnemonic : String)
  /-- Raised by `step` when the bytes in the operation port are no operation record of the model's own layout
  (notes/assumptions/16.md). Safe: the spec gives such bytes no meaning. -/
  | malformedRecord (e : DecodeError)
  /-- Raised by `State.powerOn`: the configuration breaks 00_scope.md R10 (60_exceptions.md R109 `IllFormedConfig`). Safe:
  such an instance is not built. -/
  | illFormedConfig
  deriving DecidableEq, Repr

/-- Everything 10_state.md gives the block, the instance's configuration, and the host's pending records. -/
structure State where
  /-- The instance's parameters (00_scope.md R9). No operation changes them (10_state.md R33). notes/assumptions/1.md -/
  cfg       : Config
  /-- `st` (10_state.md R19) -/
  st        : ParserState
  /-- `cmd` (10_state.md R21) -/
  cmd       : CmdId
  /-- `cmd_idx` (10_state.md R22) -/
  cmdIdx    : BitVec 1
  /-- `len` (10_state.md R23) -/
  len       : Byte
  /-- `cnt` (10_state.md R24) -/
  cnt       : Byte
  /-- `RB` (10_state.md R25): (index, byte) pairs in canonical form, `Memory.wf` -/
  rb        : List Host.Cell
  /-- `last_t` (10_state.md R26), a u_CLOCK_WIDTH -/
  lastT     : Nat
  /-- STATUS.`too_large` (10_state.md R27) -/
  tooLarge  : Bool
  /-- `REG` (10_state.md R28): (key of the identifier, handler) pairs, keys strictly rising; an absent key is `none`.
  notes/assumptions/21.md -/
  reg       : List (Nat × HandlerId)
  /-- `in_handler` (10_state.md R29) -/
  inHandler : Bool
  /-- the output trace (10_state.md R30), oldest first -/
  trace     : List Event
  /-- the sticky refused mark (60_exceptions.md R110): the refusals so far, oldest first; the mark is set iff not empty -/
  refusals  : List RefuseReason
  /-- the host's operation records not yet executed (30_encoding.md R60), oldest byte first. notes/assumptions/12.md -/
  port      : List Byte
  /-- what the last operation returned to the host (43_control.md R101). notes/assumptions/7.md -/
  result    : Option Byte
  /-- MODEL'S OWN: how many free buffer contents have been drawn (`Config.freeRbByte`). notes/assumptions/9.md -/
  free      : Nat
  deriving DecidableEq, Repr

/-- 10_state.md R32 and 70_reset_and_hazards.md R124: an instance of configuration `cfg` at power-on. -/
def State.resetWith (cfg : Config) : State where
  cfg       := cfg
  st        := .awaitingStart
  cmd       := cfg.noCmd
  cmdIdx    := 0#1
  len       := 0#8
  cnt       := 0#8
  rb        := []
  lastT     := 0
  tooLarge  := false
  reg       := []
  inHandler := false
  trace     := []
  refusals  := []
  port      := []
  result    := none
  free      := 0

/-- The machine right after reset, at the default configuration of 00_scope.md R9 (DESIGN CHOICE, safe:
notes/assumptions/17.md). -/
def State.reset : State := State.resetWith Config.default

end Sys2Proof.Machine
end

