-- ==== Sys2Proof/Machine/Flags.lean ====
section
/-! DEFINITION. The block's one flag, STATUS.too_large, and the STATUS register (10_state.md R27). The spec gives no other flag
(10_state.md R33). -/

namespace Sys2Proof.Machine

/-- 40_parser.md R74: `too_large <- 1`. -/
def setTooLarge (s : State) : State := { s with tooLarge := true }

/-- 10_state.md R27: bit 0 is `too_large`, bits 7:1 read 0; `zext_8(too_large)` of 43_control.md R101. -/
def statusWord (s : State) : Byte := (BitVec.ofBool s.tooLarge).setWidth 8

end Sys2Proof.Machine
end

