-- ==== Sys2Proof/Machine/Operands.lean ====
section
/-! DEFINITION. The operand computations of the operations: case folding, elapsed time, declared and requested lengths, the
wire frame, and the registry key of an identifier. -/

namespace Sys2Proof.Machine

/-- 00_scope.md R16: `fold`, on ASCII letters (92 D9). -/
def fold (cf : CaseFold) (c : Byte) : Byte :=
  match cf with
  | .upper => if 0x61 ≤ c.toNat ∧ c.toNat ≤ 0x7A then c - 0x20#8 else c
  | .lower => if 0x41 ≤ c.toNat ∧ c.toNat ≤ 0x5A then c + 0x20#8 else c

/-- 00_scope.md R12: `(a - b) mod 2^w`, subtraction in u_w. -/
def subMod (w a b : Nat) : Nat := (a + (2 ^ w - b % 2 ^ w)) % 2 ^ w

/-- 40_parser.md R68: `elapsed := (now - last_t) mod 2^CLOCK_WIDTH`. -/
def elapsed (now : Nat) (s : State) : Nat := subMod s.cfg.clockWidth now s.lastT

/-- 40_parser.md R69: the frame in progress is stale when byte number `now` arrives; "exceeds" is strict. -/
def isStale (now : Nat) (s : State) : Bool :=
  decide (s.cfg.tStale < elapsed now s) && s.st != .awaitingStart

/-- CAP as the u8 that `len` holds after the clamp (30_encoding.md R57, 10_state.md R23). -/
def capByte (cfg : Config) : Byte := BitVec.ofNat 8 cfg.cap

/-- 42_encoder.md R94, R95: the emitted length of a SEND: 0 when no payload is supplied, else `min(n, MAX_PAYLOAD_SIZE)`. -/
def sendLength (cfg : Config) (n : Nat) : Option (List Byte) → Nat
  | none => 0
  | some _ => min n cfg.maxPayload

/-- The bytes SEND is given: none when no payload is supplied (42_encoder.md R94). -/
def suppliedBytes : Option (List Byte) → List Byte
  | none => []
  | some p => p

/-- 42_encoder.md R93, R96: `[STX] ++ cmdbytes(id) ++ [L] ++ p[0..L) ++ [ETX]`. -/
def wireBytes (cfg : Config) (id : CmdId) (len : Nat) (p : List Byte) : List Byte :=
  [cfg.stx] ++ cmdbytes cfg.cmdWidth id ++ [BitVec.ofNat 8 len] ++ p.take len ++ [cfg.etx]

/-- 30_encoding.md R52: `frame(id, p) = [STX] ++ cmdbytes(id) ++ [|p|] ++ p ++ [ETX]`. -/
def frame (cfg : Config) (id : CmdId) (p : List Byte) : List Byte :=
  [cfg.stx] ++ cmdbytes cfg.cmdWidth id ++ [BitVec.ofNat 8 p.length] ++ p ++ [cfg.etx]

/-- The registry entry's key of an identifier: distinct identifiers have distinct keys (20_memory.md R37). -/
def regKey (id : CmdId) : Nat := 256 * id.first.toNat + id.second.toNat

end Sys2Proof.Machine
end

