-- ==== Sys2Proof/Machine/Ops.lean ====
section
/-! DEFINITION. The named operations over registers, the receive buffer, the registry and the trace (00_scope.md R13 to R16,
20_memory.md R35 to R37), and the block's only transfers of control: the staleness reset (60_exceptions.md R116) and handler
entry and return (R117, R118). The block has no trap mechanism (R103, R112). -/

namespace Sys2Proof.Machine

/-- The outcome of one operation. -/
abbrev Result := Host.Outcome State Fault Refusal

/-- What follows an operation that may stop. -/
def andThen (r : Result) (f : State → Result) : Result :=
  match r with
  | .next s => f s
  | .fault e => .fault e
  | .refused e => .refused e

/-! ### Registers (00_scope.md R13) -/

/-- `st <- p` -/
def setSt (p : ParserState) (s : State) : State := { s with st := p }

/-- `cmd <- id` -/
def setCmd (id : CmdId) (s : State) : State := { s with cmd := id }

/-- `cmd.first <- b; cmd_idx <- 1` (40_parser.md R73) -/
def setCmdFirst (b : Byte) (s : State) : State := { s with cmd := { s.cmd with first := b }, cmdIdx := 1#1 }

/-- `cmd.second <- b; cmd_idx <- 0` (40_parser.md R73) -/
def setCmdSecond (b : Byte) (s : State) : State := { s with cmd := { s.cmd with second := b }, cmdIdx := 0#1 }

/-- `len <- n` -/
def setLen (n : Byte) (s : State) : State := { s with len := n }

/-- `cnt <- n` -/
def setCnt (n : Byte) (s : State) : State := { s with cnt := n }

/-- `last_t <- now` (40_parser.md R70) -/
def stamp (now : Nat) (s : State) : State := { s with lastT := now }

/-- `in_handler <- b` -/
def setInHandler (b : Bool) (s : State) : State := { s with inHandler := b }

/-- The value an operation returns to the host (43_control.md R101). -/
def setResult (r : Option Byte) (s : State) : State := { s with result := r }

/-- 00_scope.md R16: `ClearFrame`. -/
def clearFrame (s : State) : State :=
  { s with cmd := s.cfg.noCmd, cmdIdx := 0#1, len := 0#8, cnt := 0#8 }

/-- 00_scope.md R15: `emit E`. -/
def emit (e : Event) (s : State) : State := { s with trace := s.trace ++ [e] }

/-- 00_scope.md R15, 60_exceptions.md R110: `refuse Reason`: only the sticky refused mark changes.
(DEDUCED: notes/assumptions/5.md) -/
def refuse (r : RefuseReason) (s : State) : State := { s with refusals := s.refusals ++ [r] }

/-! ### Tables: lists of (key, value) with strictly rising keys -/

def Table.lookup {α : Type} : List (Nat × α) → Nat → Option α
  | [], _ => none
  | (k', v) :: t, k => if k' = k then some v else Table.lookup t k

def Table.insert {α : Type} (k : Nat) (v : α) : List (Nat × α) → List (Nat × α)
  | [] => [(k, v)]
  | (k', v') :: t =>
    if k < k' then (k, v) :: (k', v') :: t
    else if k = k' then (k, v) :: t
    else (k', v') :: Table.insert k v t

def Table.erase {α : Type} (k : Nat) : List (Nat × α) → List (Nat × α)
  | [] => []
  | (k', v') :: t => if k' = k then Table.erase k t else (k', v') :: Table.erase k t

/-- The keys rise strictly. -/
def Table.rising {α : Type} : List (Nat × α) → Bool
  | [] => true
  | [_] => true
  | (k, _) :: (k', v') :: t => decide (k < k') && Table.rising ((k', v') :: t)

/-! ### The receive buffer (10_state.md R25) -/

/-- What an index of the receive buffer that is not listed reads as. The spec leaves the contents at power-on unspecified
(10_state.md R25): DESIGN CHOICE, unsafe: notes/assumptions/8.md. -/
def Memory.unlisted : Byte := 0#8

/-- The canonical form: indices strictly rising, no entry equal to what an unlisted index reads as. -/
def Memory.wf (m : List Host.Cell) : Bool :=
  Table.rising m && m.all (fun c => c.2 != Memory.unlisted)

def Memory.read (m : List Host.Cell) (a : Nat) : Byte :=
  match Table.lookup m a with
  | some v => v
  | none => Memory.unlisted

def Memory.write (m : List Host.Cell) (a : Nat) (v : Byte) : List Host.Cell :=
  if v = Memory.unlisted then Table.erase a m else Table.insert a v m

/-- The buffer whose byte at each index from `a` up to `a + n - 1` is `f` of the index. -/
def Memory.ofFn (f : Nat → Byte) : Nat → Nat → List Host.Cell
  | _, 0 => []
  | a, n + 1 => if f a = Memory.unlisted then Memory.ofFn f (a + 1) n else (a, f a) :: Memory.ofFn f (a + 1) n

/-- One byte of the receive buffer. -/
def rbByte (s : State) (a : Nat) : Byte := Memory.read s.rb a

/-- 20_memory.md R35: `MemWrite(RB, a, 1, v)`. -/
def memWrite (a : Nat) (v : Byte) (s : State) : Result :=
  if a < s.cfg.cap then .next { s with rb := Memory.write s.rb a v } else .fault (.bufferIndex a)

/-- The bytes at indices a … a+n-1. -/
def rbBytes (s : State) (a n : Nat) : List Byte := (List.range n).map (fun k => rbByte s (a + k))

/-- 20_memory.md R36: `MemRead(RB, a, n)`. -/
def memRead (a n : Nat) (s : State) : Except Fault (List Byte) :=
  if a + n ≤ s.cfg.cap then .ok (rbBytes s a n) else .error (.bufferIndex (a + n))

/-- 43_control.md R100: "RB is left unspecified (any bytes)": the buffer takes free contents, new ones each time.
(notes/assumptions/9.md) -/
def forgetRb (s : State) : State :=
  { s with rb := Memory.ofFn (Config.freeRbByte s.free) 0 s.cfg.cap, free := s.free + 1 }

/-! ### The handler registry (10_state.md R28) -/

/-- 20_memory.md R37: `RegLookup(id)`. -/
def regLookup (s : State) (id : CmdId) : Option HandlerId := Table.lookup s.reg (regKey id)

/-- 20_memory.md R37: `RegWrite(id, some h)`, the only form any rule uses. -/
def regWrite (id : CmdId) (h : HandlerId) (s : State) : State := { s with reg := Table.insert (regKey id) h s.reg }

/-! ### The staleness reset -/

/-- 40_parser.md R69, 60_exceptions.md R116: the block's only forced transfer of control. It saves nothing. -/
def staleReset (now : Nat) (s : State) : State :=
  if isStale now s then setSt .awaitingStart (clearFrame s) else s

/-! ### Handler entry and return -/

/-- 60_exceptions.md R117, 41_dispatch.md R88: DISPATCH signals the handler and sets `in_handler`. -/
def enterHandler (kind : DispatchKind) (h : HandlerId) (cmd : CmdId) (n : Byte) (p : List Byte) (s : State) : State :=
  setInHandler true (emit (.dispatch kind h cmd n p) s)

/-- 60_exceptions.md R118, 41_dispatch.md R92: HANDLER_RETURN restores nothing but `in_handler`. -/
def leaveHandler (s : State) : State := setInHandler false s

/-! ### Power-on -/

/-- 00_scope.md R10, 60_exceptions.md R109: a model refuses to build an ill-formed instance. -/
def State.powerOn (cfg : Config) : Result :=
  if cfg.wf then .next (State.resetWith cfg) else .refused .illFormedConfig

/-- The bytes on the TX stream so far (20_memory.md R34): those of the `TxFrame` events, in emission order. -/
def State.txStream (s : State) : List Byte :=
  s.trace.flatMap fun
    | .txFrame bs => bs
    | .dispatch _ _ _ _ _ => []
    | .tooLarge _ => []

end Sys2Proof.Machine
end

