-- ==== Sys2Proof/Machine/Control.lean ====
section
/-! DEFINITION. The control operations (43_control.md): RESET, STATUS_READ; and the reserved selectors (30_encoding.md R62). -/

namespace Sys2Proof.Machine

/-- 43_control.md R100. The trace stays, the refused mark stays (60_exceptions.md R110), the host's pending records stay. -/
def execReset (s : State) : Result :=
  .next (forgetRb { clearFrame (setSt .awaitingStart s) with
    lastT := 0, tooLarge := false, reg := [], inHandler := false })

/-- 43_control.md R101: returns STATUS; no side effect. -/
def execStatusRead (s : State) : Result := .next (setResult (some (statusWord s)) s)

/-- 30_encoding.md R62: selector 0b110 is refused `ReservedOp`. -/
def execReserved110 (s : State) : Result := .next (refuse .reservedOp s)

/-- 30_encoding.md R62: selector 0b111 is refused `ReservedOp`. -/
def execReserved111 (s : State) : Result := .next (refuse .reservedOp s)

end Sys2Proof.Machine
end

