-- ==== Sys2Proof/Machine/Encoder.lean ====
section
/-! DEFINITION. The Frame Encoder (42_encoder.md): SEND. -/

namespace Sys2Proof.Machine

/-- 42_encoder.md R93 (absent payload R94, clamp R95, emitted bytes R96, short payload R98). -/
def execSend (id : CmdId) (n : Nat) (payload : Option (List Byte)) (s : State) : Result :=
  if (suppliedBytes payload).length < sendLength s.cfg n payload then .next (refuse .shortPayload s)
  else .next (emit (.txFrame (wireBytes s.cfg id (sendLength s.cfg n payload) (suppliedBytes payload))) s)

end Sys2Proof.Machine
end

