-- ==== Sys2Proof/Machine/Dispatcher.lean ====
section
/-! DEFINITION. The Command Dispatcher (41_dispatch.md): DISPATCH, REGISTER, HANDLER_RETURN. -/

namespace Sys2Proof.Machine

/-- 41_dispatch.md R84 (exact match R85, fallback R86, drop R87). -/
def execDispatch (cmd : CmdId) (n : Byte) (s : State) : Result :=
  match memRead 0 n.toNat s with
  | .error e => .fault e
  | .ok p =>
    match regLookup s cmd with
    | some h => .next (enterHandler .exact h cmd n p s)
    | none =>
      match regLookup s s.cfg.invalidCmd with
      | some f => .next (enterHandler .fallback f cmd n p s)
      | none => .next s

/-- 41_dispatch.md R90, R91. -/
def execRegister (id : CmdId) (h : HandlerId) (s : State) : Result :=
  if s.inHandler then .next (refuse .registerDuringHandler s) else .next (regWrite id h s)

/-- 41_dispatch.md R92. -/
def execHandlerReturn (s : State) : Result :=
  if s.inHandler then .next (leaveHandler s) else .next (refuse .returnWithoutHandler s)

end Sys2Proof.Machine
end

