-- ==== Sys2Proof/Machine/Parser.lean ====
section
/-! DEFINITION. The Frame Parser (40_parser.md): the byte rules, one meaning per row of 30_encoding.md R61, and FEED (R80).
A row's meaning is its rule's pseudocode; FEED runs it in the state the row belongs to (notes/assumptions/14.md). -/

namespace Sys2Proof.Machine

/-- 40_parser.md R71, `c = STX`. -/
def execFeedStart (s : State) : Result := .next (setSt .awaitingCommand (clearFrame s))

/-- 40_parser.md R71, any other byte: "remain (ignore/discard byte)". -/
def execFeedIgnore (_c : Byte) (s : State) : Result := .next s

/-- 40_parser.md R72. -/
def execFeedCmdByte (c : Byte) (s : State) : Result := .next (setSt .awaitingLength (setCmd ⟨c, 0#8⟩ s))

/-- 40_parser.md R73. -/
def execFeedCmdChar (c : Byte) (s : State) : Result :=
  if s.cmdIdx = 0#1 then .next (setCmdFirst (fold s.cfg.caseFold c) s)
  else .next (setSt .awaitingLength (setCmdSecond (fold s.cfg.caseFold c) s))

/-- 40_parser.md R75. -/
def execFeedLenZero (s : State) : Result := .next (setSt .awaitingEnd (setLen 0#8 s))

/-- 40_parser.md R74, `c = CAP`. -/
def execFeedLenMax (s : State) : Result := .next (setSt .awaitingPayload (setLen (capByte s.cfg) s))

/-- 40_parser.md R74, `1 <= c < CAP`. -/
def execFeedLenSmall (c : Byte) (s : State) : Result := .next (setSt .awaitingPayload (setLen c s))

/-- 40_parser.md R74, `c > CAP`: `too_large` and the event come before the policy (60_exceptions.md R114). -/
def execFeedLenTooLarge (c : Byte) (s : State) : Result :=
  match s.cfg.lenPolicy with
  | .clamp => .next (setSt .awaitingPayload (setLen (capByte s.cfg) (emit (.tooLarge c) (setTooLarge s))))
  | .reject => .next (setSt .awaitingStart (clearFrame (emit (.tooLarge c) (setTooLarge s))))

/-- 40_parser.md R76: "`if cnt = len then st <- AwaitingEnd`", on the incremented `cnt`. -/
def endPayloadIfFull (s : State) : State := if s.cnt = s.len then setSt .awaitingEnd s else s

/-- 40_parser.md R76. -/
def execFeedPayloadByte (c : Byte) (s : State) : Result :=
  andThen (memWrite s.cnt.toNat c s) fun s => .next (endPayloadIfFull (setCnt (s.cnt + 1#8) s))

/-- 40_parser.md R77: DISPATCH reads `cmd`, `len` and RB before they are cleared. -/
def execFeedEnd (s : State) : Result :=
  andThen (execDispatch s.cmd s.len s) fun s => .next (setSt .awaitingStart (clearFrame s))

/-- 40_parser.md R78: silent abort; this STX starts the next frame. -/
def execFeedResync (s : State) : Result := .next (setSt .awaitingCommand (clearFrame s))

/-- 40_parser.md R79: abort-to-start. -/
def execFeedEndAbort (_c : Byte) (s : State) : Result := .next (setSt .awaitingStart (clearFrame s))

/-- 40_parser.md R80, the `case st of`. -/
def parseByte (c : Byte) (s : State) : Result :=
  match s.st with
  | .awaitingStart => if c = s.cfg.stx then execFeedStart s else execFeedIgnore c s
  | .awaitingCommand =>
    match s.cfg.cmdWidth with
    | .one => execFeedCmdByte c s
    | .two => execFeedCmdChar c s
  | .awaitingLength =>
    if c = 0#8 then execFeedLenZero s
    else if c.toNat = s.cfg.cap then execFeedLenMax s
    else if c.toNat < s.cfg.cap then execFeedLenSmall c s
    else execFeedLenTooLarge c s
  | .awaitingPayload => execFeedPayloadByte c s
  | .awaitingEnd =>
    if c = s.cfg.etx then execFeedEnd s
    else if c = s.cfg.stx then execFeedResync s
    else execFeedEndAbort c s
  | .notState _ => .fault .badState

/-- 40_parser.md R80: admission (R67), the staleness check (R69), the timestamp (R70), then the byte rule. -/
def execFeed (c : Byte) (now : Nat) (s : State) : Result :=
  if s.inHandler then .next (refuse .feedDuringHandler s)
  else parseByte c (stamp now (staleReset now s))

end Sys2Proof.Machine
end

