-- ==== Sys2Proof/Machine/Dispatch.lean ====
section
/-! DEFINITION. exec: one arm per operation (30_encoding.md R60, R61; 41_dispatch.md R84). -/

namespace Sys2Proof.Machine

def exec (i : Instr) (s : State) : Host.Outcome State Fault Refusal :=
  match i with
  -- the host's operation records
  | .feed c now => Sys2Proof.Machine.execFeed c now s
  | .register id h => Sys2Proof.Machine.execRegister id h s
  | .send id n payload => Sys2Proof.Machine.execSend id n payload s
  | .handlerReturn => Sys2Proof.Machine.execHandlerReturn s
  | .reset => Sys2Proof.Machine.execReset s
  | .statusRead => Sys2Proof.Machine.execStatusRead s
  | .reserved110 => Sys2Proof.Machine.execReserved110 s
  | .reserved111 => Sys2Proof.Machine.execReserved111 s
  -- the parser's byte rows
  | .feedStart => Sys2Proof.Machine.execFeedStart s
  | .feedIgnore c => Sys2Proof.Machine.execFeedIgnore c s
  | .feedCmdByte c => Sys2Proof.Machine.execFeedCmdByte c s
  | .feedCmdChar c => Sys2Proof.Machine.execFeedCmdChar c s
  | .feedLenZero => Sys2Proof.Machine.execFeedLenZero s
  | .feedLenMax => Sys2Proof.Machine.execFeedLenMax s
  | .feedLenSmall c => Sys2Proof.Machine.execFeedLenSmall c s
  | .feedLenTooLarge c => Sys2Proof.Machine.execFeedLenTooLarge c s
  | .feedPayloadByte c => Sys2Proof.Machine.execFeedPayloadByte c s
  | .feedEnd => Sys2Proof.Machine.execFeedEnd s
  | .feedResync => Sys2Proof.Machine.execFeedResync s
  | .feedEndAbort c => Sys2Proof.Machine.execFeedEndAbort c s
  -- performed only by FEED.END
  | .dispatch cmd n => Sys2Proof.Machine.execDispatch cmd n s

end Sys2Proof.Machine
end

