-- ==== Sys2Proof/Machine/Fetch.lean ====
section
/-! DEFINITION. Taking the host's next operation record from the port, and putting a record or a parser key where the next step
takes it from. -/

namespace Sys2Proof.Machine

/-- What the port holds next. -/
inductive Fetched where
  /-- no record is pending: the block holds its state (60_exceptions.md R122) -/
  | idle
  /-- the bytes are no record of the model's layout -/
  | malformed (e : DecodeError)
  /-- an operation, and the bytes after it -/
  | record (i : Instr) (rest : List Byte)
  deriving DecidableEq, Repr

def fetch (s : State) : Fetched :=
  match s.port with
  | [] => .idle
  | b :: bs =>
    match decodeRecord s.cfg (b :: bs) with
    | .error e => .malformed e
    | .ok (i, rest) => .record i rest

/-- The state an operation runs in: its record is taken from the port, and the last operation's result is gone (FEED and
SEND return nothing: 40_parser.md R83, 42_encoder.md R95). -/
def afterFetch (rest : List Byte) (s : State) : State := { s with port := rest, result := none }

/-- The host appends an operation record to the pending ones. -/
def issue (i : Instr) (s : State) : State := { s with port := s.port ++ encode s.cfg i }

/-- The parser fetches a key from `st` and the byte of an admitted FEED: set `st` to the key's state, let no handler run, and
put in the port a FEED of the key's byte whose clock sample equals `last_t`. -/
def placeKey (w : Nat) (s : State) : State :=
  { s with
    st := ParserState.ofCode (BitVec.ofNat 3 (w / 256))
    inHandler := false
    port := encode s.cfg (.feed (BitVec.ofNat 8 w) (s.lastT % 2 ^ s.cfg.clockWidth)) }

/-- Put the table word `w` of `nbits` bits where the next step takes its operation from. -/
def placeWord (nbits w : Nat) (s : State) : State :=
  if nbits ≤ 8 then { s with port := tableBytes s.cfg nbits w } else placeKey w s

end Sys2Proof.Machine
end

