-- ==== Sys2Proof/Machine/Step.lean ====
section
/-! DEFINITION. One step of the block: one operation of the host, or none (20_memory.md R42, 60_exceptions.md R122). -/

namespace Sys2Proof.Machine

/-- 20_memory.md R42: the next operation record, executed as one atomic step. With no record pending the block holds its
state (60_exceptions.md R122). -/
def step (s : State) : Host.Outcome State Fault Refusal :=
  match fetch s with
  | .idle => .next s
  | .malformed e => .refused (.malformedRecord e)
  | .record i rest => exec i (afterFetch rest s)

/-- `s` with the operation of a table word where `step` takes its next operation from (notes/assumptions/13.md, 14.md). -/
def State.withFetchWord (s : State) (nbits w : Nat) : State := placeWord nbits w s

end Sys2Proof.Machine
end

