-- ==== Sys2Proof/Safety.lean ====
section
/-! DEFINITION. What claims about the block are stated in: when the host keeps its contract (60_exceptions.md R109), the
invariant of reachable states (10_state.md R31), runs of several operations, and the relations used for independence. -/

namespace Sys2Proof.Machine

/-! ### The host's contract -/

/-- 60_exceptions.md R109: the reason an operation is refused in this state, if it is. -/
def refusalOf (i : Instr) (s : State) : Option RefuseReason :=
  match i with
  | .feed _ _ => if s.inHandler then some .feedDuringHandler else none
  | .register _ _ => if s.inHandler then some .registerDuringHandler else none
  | .handlerReturn => if s.inHandler then none else some .returnWithoutHandler
  | .send _ n (some p) => if p.length < min n s.cfg.maxPayload then some .shortPayload else none
  | .send _ _ none => none
  | .reserved110 => some .reservedOp
  | .reserved111 => some .reservedOp
  | .reset => none
  | .statusRead => none
  | .feedStart => none
  | .feedIgnore _ => none
  | .feedCmdByte _ => none
  | .feedCmdChar _ => none
  | .feedLenZero => none
  | .feedLenMax => none
  | .feedLenSmall _ => none
  | .feedLenTooLarge _ => none
  | .feedPayloadByte _ => none
  | .feedEnd => none
  | .feedResync => none
  | .feedEndAbort _ => none
  | .dispatch _ _ => none

/-- 40_parser.md R67, R69: the byte is admitted and the frame in progress, if any, is not stale. -/
abbrev State.takesByteInTime (s : State) (now : Nat) : Prop := s.inHandler = false ∧ isStale now s = false

/-! ### Runs -/

/-- The operations of a list, one after another (20_memory.md R46; notes/assumptions/18.md), each in the state the last one
left. -/
def runOps : List Instr → State → Result
  | [], s => .next s
  | i :: is, s => andThen (exec i s) (runOps is)

/-- One FEED per byte, each with its clock sample. -/
def feeds (bytes : List (Byte × Nat)) : List Instr := bytes.map fun b => .feed b.1 b.2

/-- 70_reset_and_hazards.md R129: successive samples are at most T_STALE ticks apart. -/
def steady (cfg : Config) : List Nat → Bool
  | [] => true
  | [_] => true
  | t :: t' :: ts => decide (subMod cfg.clockWidth t' t ≤ cfg.tStale) && steady cfg (t' :: ts)

/-! ### The invariant -/

/-- 42_encoder.md R99: the identifier is already folded (always so when CMD_WIDTH = 1). -/
def CmdId.folded (cfg : Config) (id : CmdId) : Prop :=
  cfg.cmdWidth = .two → fold cfg.caseFold id.first = id.first ∧ fold cfg.caseFold id.second = id.second

/-- 10_state.md R30: what the fields of an event satisfy. -/
def Event.wf (cfg : Config) : Event → Prop
  | .dispatch _ h cmd n p =>
      p.length = n.toNat ∧ n.toNat ≤ cfg.cap ∧ cmd.fits cfg.cmdWidth = true ∧ CmdId.folded cfg cmd
        ∧ cfg.handlerType.has h = true
  | .tooLarge v => cfg.cap < v.toNat
  | .txFrame bytes =>
      ∃ id p, id.fits cfg.cmdWidth = true ∧ p.length ≤ cfg.maxPayload ∧ bytes = frame cfg id p

/-- 10_state.md R31, with what the spec's other rules say of every reachable state. R31(e) is no field; it is said as
unobservability (notes/assumptions/22.md). -/
structure State.Inv (s : State) : Prop where
  /-- 00_scope.md R10 -/
  cfg_wf : s.cfg.wf = true
  /-- 10_state.md R20: no value of `st` outside the five -/
  st_isState : ∀ k, s.st ≠ .notState k
  /-- R31(a) -/
  cnt_le_len : s.cnt.toNat ≤ s.len.toNat
  /-- R31(a) -/
  len_le_cap : s.len.toNat ≤ s.cfg.cap
  /-- R31(b) -/
  payload_open : s.st = .awaitingPayload → 1 ≤ s.len.toNat ∧ s.cnt.toNat < s.len.toNat
  /-- R31(c) -/
  end_full : s.st = .awaitingEnd → s.cnt = s.len
  /-- R31(d) -/
  early_clear : s.st = .awaitingStart ∨ s.st = .awaitingCommand ∨ s.st = .awaitingLength → s.cnt = 0#8 ∧ s.len = 0#8
  /-- R31(d) -/
  start_noCmd : s.st = .awaitingStart → s.cmd = s.cfg.noCmd
  /-- R31(f) -/
  second_expected : s.cmdIdx = 1#1 → s.cfg.cmdWidth = .two ∧ s.st = .awaitingCommand
  /-- 10_state.md R21 -/
  cmd_fits : s.cmd.fits s.cfg.cmdWidth = true
  /-- 30_encoding.md R58: received identifiers are folded; the first byte as soon as it is in -/
  first_folded : s.cmdIdx = 1#1 → fold s.cfg.caseFold s.cmd.first = s.cmd.first
  /-- 30_encoding.md R58 -/
  cmd_folded : s.st = .awaitingLength ∨ s.st = .awaitingPayload ∨ s.st = .awaitingEnd → CmdId.folded s.cfg s.cmd
  /-- 10_state.md R26: a u_CLOCK_WIDTH -/
  lastT_lt : s.lastT < 2 ^ s.cfg.clockWidth
  /-- the receive buffer is in canonical form -/
  rb_wf : Memory.wf s.rb = true
  /-- 10_state.md R25: indices 0 … CAP-1 -/
  rb_index : ∀ c ∈ s.rb, c.1 < s.cfg.cap
  /-- the registry is in canonical form -/
  reg_rising : Table.rising s.reg = true
  /-- 10_state.md R28: every entry is that of an identifier of the instance's width -/
  reg_key : ∀ e ∈ s.reg, ∃ id, id.fits s.cfg.cmdWidth = true ∧ regKey id = e.1
  /-- 10_state.md R28: every entry is a value of the instance's type `HandlerId` (00_scope.md R9) -/
  reg_handler : ∀ e ∈ s.reg, s.cfg.handlerType.has e.2 = true
  /-- 60_exceptions.md R117, 70_reset_and_hazards.md R130: while a handler runs the parser is in `AwaitingStart` -/
  handler_idle : s.inHandler = true → s.st = .awaitingStart
  /-- 10_state.md R30 -/
  trace_wf : ∀ e ∈ s.trace, e.wf s.cfg

/-! ### Relations -/

/-- 10_state.md R31(e), R25: the states differ at most in bytes of the receive buffer that the current frame has not
written. -/
def State.agreesUpToStaleBytes (s s' : State) : Prop :=
  { s' with rb := s.rb } = s ∧ ∀ a, a < s.cnt.toNat → rbByte s' a = rbByte s a

/-- Two outcomes: both go on, to states related by `R`, or both stop for the same reason. -/
def sameOutcome (R : State → State → Prop) (r r' : Result) : Prop :=
  match r, r' with
  | .next t, .next t' => R t t'
  | .fault e, .fault e' => e = e'
  | .refused e, .refused e' => e = e'
  | _, _ => False

/-- 00_scope.md R9, 92 D24: the same event but for the handler's identity, which corresponds by `R`. -/
def Event.sameUpToHandler (R : HandlerId → HandlerId → Prop) : Event → Event → Prop
  | .dispatch k h cmd n p, .dispatch k' h' cmd' n' p' => k = k' ∧ R h h' ∧ cmd = cmd' ∧ n = n' ∧ p = p'
  | .tooLarge v, .tooLarge v' => v = v'
  | .txFrame bs, .txFrame bs' => bs = bs'
  | _, _ => False

/-- 00_scope.md R9, 92 D24: the states are the same but for handler identities, in the registry and in the trace, which
correspond by `R`. -/
def State.sameUpToHandlers (R : HandlerId → HandlerId → Prop) (s s' : State) : Prop :=
  { s' with reg := s.reg, trace := s.trace } = s
    ∧ List.Forall₂ (fun e e' => e.1 = e'.1 ∧ R e.2 e'.2) s.reg s'.reg
    ∧ List.Forall₂ (Event.sameUpToHandler R) s.trace s'.trace

/-- 00_scope.md R9, 92 D24: the same operation but for the handler of a REGISTER, which corresponds by `R`. -/
def sameOperationUpToHandler (R : HandlerId → HandlerId → Prop) (i i' : Instr) : Prop :=
  (i' = i ∧ ∀ id h, i ≠ .register id h) ∨ ∃ id h h', R h h' ∧ i = .register id h ∧ i' = .register id h'

/-- The event is one of the send side (60_exceptions.md R121). -/
def Event.isTx : Event → Bool
  | .txFrame _ => true
  | .dispatch _ _ _ _ _ => false
  | .tooLarge _ => false

/-- The send side's events of the trace, in order. -/
def State.txEvents (s : State) : List Event := s.trace.filter Event.isTx

/-- The receive side's events of the trace, in order. -/
def State.rxEvents (s : State) : List Event := s.trace.filter fun e => !e.isTx

/-- The registers and memories of the receive side (20_memory.md R46): everything but the trace. -/
def State.receiveSide (s : State) : State := { s with trace := [] }

end Sys2Proof.Machine
end

