-- ==== Sys2Proof/Certificates/Slice0/Obligations.lean ====
section
/-! DEFINITION. The statements about the frame block. Each docstring names the rule of spec/ it follows. Every statement
quantifies over the whole configuration (00_scope.md R9): no default value is assumed unless the statement names it. -/

open Sys2Proof Sys2Proof.Machine

/-! ### Encodings -/

/-- 30_encoding.md R60, R61, R59: words written out bit by bit from the tables, one or more of each family. The bytes of a
record after its selector follow the model's layout (DESIGN CHOICE, notes/assumptions/2.md). -/
def Obligations.TableWordsDecodeToTheirOperations : Prop :=
  decodeTableWord 8 0b00000000 = some (.feed 0x00#8 0)
    ∧ decodeTableWord 8 0b00000001 = some (.register ⟨0x00#8, 0x00#8⟩ 0)
    ∧ decodeTableWord 8 0b00000010 = some (.send ⟨0x00#8, 0x00#8⟩ 0 none)
    ∧ decodeTableWord 8 0b00000011 = some .handlerReturn
    ∧ decodeTableWord 8 0b00000100 = some .reset
    ∧ decodeTableWord 8 0b00000101 = some .statusRead
    ∧ decodeTableWord 8 0b00000110 = some .reserved110
    ∧ decodeTableWord 8 0b00000111 = some .reserved111
    ∧ decodeTableWord 16 0b0000000000000010 = some .feedStart
    ∧ decodeTableWord 16 0b0000000100010000 = some (.feedCmdByte 0x10#8)
    ∧ decodeTableWord 16 0b0000001001000000 = some (.feedLenSmall 0x40#8)
    ∧ decodeTableWord 16 0b0000010000000011 = some .feedEnd
    ∧ decodeTableWord 16 0b0000010100000011 = none
    ∧ decodeTableWordFor Config.defaultWide 16 0b0000000101100001 = some (.feedCmdChar 0x61#8)
    ∧ decodeRecord Config.default [0x00#8, 0x02#8, 0x64#8, 0x00#8, 0x00#8, 0x00#8] = .ok (.feed 0x02#8 100, [])

/-- Decode and encode agree on the host's records (30_encoding.md R60; layout: DESIGN CHOICE, notes/assumptions/2.md; the
handler's type: DESIGN CHOICE, notes/assumptions/3.md): every well-formed record, with every operand at every value its width
or its type admits and a supplied sequence of any length, is read back whole, whatever follows it. -/
def Obligations.RecordsRoundTrip : Prop :=
  ∀ (cfg : Config) (i : Instr) (rest : List Byte), i.isRecord = true → i.wf cfg = true →
    decodeRecord cfg (encode cfg i ++ rest) = .ok (i, rest)

/-- Decode and encode agree on the parser's byte rows (30_encoding.md R61), for every configuration: the key of each row with
each byte it admits selects that row and no other. -/
def Obligations.ParserKeysRoundTrip : Prop :=
  ∀ (cfg : Config) (i : Instr) (rest : List Byte), cfg.wf = true → i.isRow = true → i.wf cfg = true →
    decodeKeyBytes cfg (encode cfg i ++ rest) = .ok (i, rest)

/-- What the record decoder answers is a host operation with operands in the ranges of 30_encoding.md R60, and a handler of the
instance's type `HandlerId` (00_scope.md R9). The bytes read are laid out as the model chooses (DESIGN CHOICE,
notes/assumptions/2.md), and a handler is named by a number that the type has (DESIGN CHOICE, notes/assumptions/3.md). -/
def Obligations.DecodedRecordsAreWellFormed : Prop :=
  ∀ (cfg : Config) (bs rest : List Byte) (i : Instr), decodeRecord cfg bs = .ok (i, rest) →
    i.isRecord = true ∧ i.wf cfg = true

/-- 30_encoding.md R61 "Every key with a state code 0b000 to 0b100 matches exactly one first row", and R62: a code that is no
state matches none. The row is well-formed (its byte meets the row's condition) and the key is that row's own. -/
def Obligations.EveryKeyOfAStateHasItsRow : Prop :=
  ∀ (cfg : Config) (st : ParserState) (c : Byte), cfg.wf = true →
    ((∀ k, st ≠ .notState k) →
      ∃ i, decodeKey cfg st c = some i ∧ i.isRow = true ∧ i.wf cfg = true ∧ encode cfg i = keyBytes st c)
    ∧ ((∃ k, st = .notState k) → decodeKey cfg st c = none)

/-- 30_encoding.md R61: at the default configuration the rows are those of the printed match and mask columns. -/
def Obligations.DefaultRowsAreThePrintedMasks : Prop :=
  ∀ (st : ParserState) (c : Byte),
    decodeKeyBits Config.default (keyOf st c) = decodeKey Config.default st c
    ∧ decodeKeyByMasks (keyOf st c) = decodeKey Config.default st c

/-- 30_encoding.md R59: the state codes of the five states. That a code which is no state (R62) is kept as it is, where R59 lets
a model drop it, is the model's choice (DESIGN CHOICE, notes/assumptions/10.md). -/
def Obligations.StateCodesAreThePrintedOnes : Prop :=
  ParserState.code .awaitingStart = 0b000#3
    ∧ ParserState.code .awaitingCommand = 0b001#3
    ∧ ParserState.code .awaitingLength = 0b010#3
    ∧ ParserState.code .awaitingPayload = 0b011#3
    ∧ ParserState.code .awaitingEnd = 0b100#3
    ∧ (∀ b : BitVec 3, 0b101#3 ≤ b ↔ ∃ k, ParserState.ofCode b = .notState k)
    ∧ (∀ st : ParserState, ParserState.ofCode st.code = st)
    ∧ (∀ b : BitVec 3, (ParserState.ofCode b).code = b)

/-- 30_encoding.md R52 and R53: the wire frame, and the offset of each of its fields. -/
def Obligations.WireFrameHasTheFieldOffsets : Prop :=
  ∀ (cfg : Config) (id : CmdId) (p : List Byte) (w : Nat), p.length ≤ 255 →
    (cfg.cmdWidth = .one ∧ w = 1) ∨ (cfg.cmdWidth = .two ∧ w = 2) →
    frame cfg id p = [cfg.stx] ++ cmdbytes cfg.cmdWidth id ++ [BitVec.ofNat 8 p.length] ++ p ++ [cfg.etx]
    ∧ (frame cfg id p).length = 3 + w + p.length
    ∧ (frame cfg id p)[0]? = some cfg.stx
    ∧ (frame cfg id p)[1]? = some id.first
    ∧ (w = 2 → (frame cfg id p)[2]? = some id.second)
    ∧ (∃ l : Byte, (frame cfg id p)[1 + w]? = some l ∧ l.toNat = p.length)
    ∧ (∀ k, k < p.length → (frame cfg id p)[2 + w + k]? = p[k]?)
    ∧ (frame cfg id p)[2 + w + p.length]? = some cfg.etx

/-- 00_scope.md R16: the three helpers. -/
def Obligations.HelpersFollowTheirDefinitions : Prop :=
  (∀ s : State, clearFrame s = { s with cmd := s.cfg.noCmd, cmdIdx := 0#1, len := 0#8, cnt := 0#8 })
    ∧ (∀ c : Byte, 0x61 ≤ c.toNat → c.toNat ≤ 0x7A → (fold .upper c).toNat = c.toNat - 0x20)
    ∧ (∀ c : Byte, c.toNat < 0x61 ∨ 0x7A < c.toNat → fold .upper c = c)
    ∧ (∀ c : Byte, 0x41 ≤ c.toNat → c.toNat ≤ 0x5A → (fold .lower c).toNat = c.toNat + 0x20)
    ∧ (∀ c : Byte, c.toNat < 0x41 ∨ 0x5A < c.toNat → fold .lower c = c)
    ∧ (∀ id : CmdId, cmdbytes .one id = [id.first] ∧ cmdbytes .two id = [id.first, id.second])

/-- 20_memory.md R35, R36: the receive buffer's primitives: a written byte is what is read back, no other byte changes, and an
index outside 0 … CAP-1 faults. -/
def Obligations.BufferPrimitivesReadWhatWasWritten : Prop :=
  (∀ (s : State) (a : Nat) (v : Byte), a < s.cfg.cap →
      ∃ t, memWrite a v s = .next t ∧ rbByte t a = v ∧ (∀ b, b ≠ a → rbByte t b = rbByte s b) ∧ t = { s with rb := t.rb })
    ∧ (∀ (s : State) (a : Nat) (v : Byte), s.cfg.cap ≤ a → memWrite a v s = .fault (.bufferIndex a))
    ∧ (∀ (s : State) (a n : Nat), a + n ≤ s.cfg.cap →
      memRead a n s = .ok ((List.range n).map fun k => rbByte s (a + k)))
    ∧ (∀ (s : State) (a n : Nat), s.cfg.cap < a + n → memRead a n s = .error (.bufferIndex (a + n)))

/-- 20_memory.md R37: the registry's primitives: a written entry is what is looked up, and no other entry changes. -/
def Obligations.RegistryPrimitivesFindWhatWasWritten : Prop :=
  ∀ (s : State) (id : CmdId) (h : HandlerId),
    regLookup (regWrite id h s) id = some h
    ∧ (∀ id', id' ≠ id → regLookup (regWrite id h s) id' = regLookup s id')
    ∧ regWrite id h s = { s with reg := (regWrite id h s).reg }

/-! ### Steps, reset and building -/

/-- 20_memory.md R42, 60_exceptions.md R122: a step is the meaning of the record at the front of the port, in the state whose
port has lost the record and whose last result is gone; with no record the block holds its state. The port and the result
are the model's (DESIGN CHOICE, notes/assumptions/7.md and 12.md), and so is it that bytes which are no record stop the run
(DESIGN CHOICE, notes/assumptions/16.md). -/
def Obligations.StepRunsTheDecodedRecord : Prop :=
  (∀ (s : State) (i : Instr) (rest : List Byte), decodeRecord s.cfg s.port = .ok (i, rest) →
      step s = exec i { s with port := rest, result := none })
    ∧ (∀ s : State, s.port = [] → step s = .next s)
    ∧ (∀ (s : State) (e : DecodeError), s.port ≠ [] → decodeRecord s.cfg s.port = .error e →
        step s = .refused (.malformedRecord e))

/-- A record that the host issues to an idle port runs in the very next step (30_encoding.md R60, 20_memory.md R42). The
port and `issue`, the record's bytes, and the step's clearing of the last result are the model's (DESIGN CHOICE,
notes/assumptions/12.md, 2.md and 7.md). -/
def Obligations.IssuedRecordRunsNext : Prop :=
  ∀ (s : State) (i : Instr), s.port = [] → i.isRecord = true → i.wf s.cfg = true →
    step (issue i s) = exec i { s with result := none }

/-- 10_state.md R32: the reset values, at power-on and after RESET. RB is unspecified there: what a byte of it holds is no part
of this statement. -/
def Obligations.ResetValuesAreThoseOfTheTable : Prop :=
  State.reset = State.resetWith Config.default
    ∧ ∀ cfg : Config,
      (State.resetWith cfg).cfg = cfg
      ∧ (State.resetWith cfg).st = .awaitingStart
      ∧ (State.resetWith cfg).cmd = cfg.noCmd
      ∧ (State.resetWith cfg).cmdIdx = 0#1
      ∧ (State.resetWith cfg).len = 0#8
      ∧ (State.resetWith cfg).cnt = 0#8
      ∧ (State.resetWith cfg).lastT = 0
      ∧ (State.resetWith cfg).tooLarge = false
      ∧ statusWord (State.resetWith cfg) = 0x00#8
      ∧ (∀ id, regLookup (State.resetWith cfg) id = none)
      ∧ (State.resetWith cfg).inHandler = false
      ∧ (State.resetWith cfg).trace = []
      ∧ ∀ s : State, s.cfg = cfg → ∃ t, exec .reset s = .next t
        ∧ t.st = .awaitingStart ∧ t.cmd = cfg.noCmd ∧ t.cmdIdx = 0#1 ∧ t.len = 0#8 ∧ t.cnt = 0#8 ∧ t.lastT = 0
        ∧ t.tooLarge = false ∧ statusWord t = 0x00#8 ∧ (∀ id, regLookup t id = none) ∧ t.inHandler = false
        ∧ t.trace = s.trace

/-- 00_scope.md R10: an ill-formed instance is not built; a configuration in the legal ranges of R9 that meets R10 is. -/
def Obligations.IllFormedConfigurationIsNotBuilt : Prop :=
  (∀ cfg : Config,
      cfg.stx = cfg.etx ∨ cfg.cap = 0 ∨ 255 < cfg.cap ∨ 255 < cfg.maxPayload ∨ cfg.noCmd = cfg.invalidCmd →
      State.powerOn cfg = .refused .illFormedConfig)
    ∧ (∀ cfg : Config,
      cfg.stx ≠ cfg.etx → 1 ≤ cfg.cap → cfg.cap ≤ 255 → cfg.maxPayload ≤ 255 → cfg.noCmd ≠ cfg.invalidCmd →
      1 ≤ cfg.clockWidth → 8 ≤ cfg.txLenWidth → cfg.noCmd.fits cfg.cmdWidth = true →
      cfg.invalidCmd.fits cfg.cmdWidth = true →
      State.powerOn cfg = .next (State.resetWith cfg))

/-- 10_state.md R31 (derived by the spec) at reset: the invariant holds of every well-formed instance. -/
def Obligations.InvariantHoldsAtReset : Prop :=
  (∀ cfg : Config, cfg.wf = true → (State.resetWith cfg).Inv) ∧ State.reset.Inv

/-- 10_state.md R31 (derived by the spec), with R19 to R30: every step from a state that meets the invariant leads to one that
meets it, whatever bytes the host put in the port. -/
def Obligations.StepKeepsTheInvariant : Prop :=
  ∀ s t : State, s.Inv → step s = .next t → t.Inv

/-! ### FEED, byte rule by byte rule -/

/-- 40_parser.md R71: `AwaitingStart`. No clock sample makes a byte late there (R69). -/
def Obligations.AwaitingStartWaitsForStx : Prop :=
  (∀ (s : State) (c : Byte) (now : Nat), s.inHandler = false → s.st = .awaitingStart →
      (c = s.cfg.stx → exec (.feed c now) s =
        .next { s with lastT := now, cmd := s.cfg.noCmd, cmdIdx := 0#1, len := 0#8, cnt := 0#8, st := .awaitingCommand })
      ∧ (c ≠ s.cfg.stx → exec (.feed c now) s = .next { s with lastT := now }))
    ∧ (∀ s : State, exec .feedStart s =
        .next { s with cmd := s.cfg.noCmd, cmdIdx := 0#1, len := 0#8, cnt := 0#8, st := .awaitingCommand })
    ∧ (∀ (s : State) (c : Byte), exec (.feedIgnore c) s = .next s)

/-- 40_parser.md R72: every byte value is the command identifier when CMD_WIDTH = 1. -/
def Obligations.CommandByteIsStoredAsReceived : Prop :=
  (∀ (s : State) (c : Byte) (now : Nat), s.takesByteInTime now → s.cfg.cmdWidth = .one → s.st = .awaitingCommand →
      exec (.feed c now) s = .next { s with lastT := now, cmd := ⟨c, 0x00#8⟩, st := .awaitingLength })
    ∧ (∀ (s : State) (c : Byte), exec (.feedCmdByte c) s = .next { s with cmd := ⟨c, 0x00#8⟩, st := .awaitingLength })

/-- 40_parser.md R73: two successive bytes, each folded, when CMD_WIDTH = 2. -/
def Obligations.CommandCharactersAreFoldedInOrder : Prop :=
  (∀ (s : State) (c : Byte) (now : Nat), s.takesByteInTime now → s.cfg.cmdWidth = .two → s.st = .awaitingCommand →
      (s.cmdIdx = 0#1 → exec (.feed c now) s =
        .next { s with lastT := now, cmd := ⟨fold s.cfg.caseFold c, s.cmd.second⟩, cmdIdx := 1#1 })
      ∧ (s.cmdIdx = 1#1 → exec (.feed c now) s =
        .next { s with lastT := now, cmd := ⟨s.cmd.first, fold s.cfg.caseFold c⟩, cmdIdx := 0#1, st := .awaitingLength }))
    ∧ (∀ (s : State) (c : Byte),
      (s.cmdIdx = 0#1 → exec (.feedCmdChar c) s =
        .next { s with cmd := ⟨fold s.cfg.caseFold c, s.cmd.second⟩, cmdIdx := 1#1 })
      ∧ (s.cmdIdx = 1#1 → exec (.feedCmdChar c) s =
        .next { s with cmd := ⟨s.cmd.first, fold s.cfg.caseFold c⟩, cmdIdx := 0#1, st := .awaitingLength }))
    ∧ Config.default.caseFold = .upper

/-- 40_parser.md R75: a zero length skips the payload phase. -/
def Obligations.ZeroLengthSkipsThePayload : Prop :=
  (∀ (s : State) (now : Nat), s.takesByteInTime now → s.st = .awaitingLength →
      exec (.feed 0x00#8 now) s = .next { s with lastT := now, len := 0#8, st := .awaitingEnd })
    ∧ (∀ s : State, exec .feedLenZero s = .next { s with len := 0#8, st := .awaitingEnd })

/-- 40_parser.md R74: a nonzero length byte; above CAP it sets `too_large`, emits `TooLarge`, and is clamped or rejected by
LEN_POLICY. The rows LEN_MAX, LEN_SMALL and LEN_TOO_LARGE are the three ranges of the byte. -/
def Obligations.LengthIsStoredClampedOrRejected : Prop :=
  (∀ (s : State) (c : Byte) (now : Nat), s.takesByteInTime now → s.st = .awaitingLength → c ≠ 0x00#8 →
      (c.toNat ≤ s.cfg.cap → exec (.feed c now) s = .next { s with lastT := now, len := c, st := .awaitingPayload })
      ∧ (s.cfg.cap < c.toNat → s.cfg.lenPolicy = .clamp → exec (.feed c now) s =
          .next { s with lastT := now, tooLarge := true, trace := s.trace ++ [.tooLarge c],
                         len := BitVec.ofNat 8 s.cfg.cap, st := .awaitingPayload })
      ∧ (s.cfg.cap < c.toNat → s.cfg.lenPolicy = .reject → exec (.feed c now) s =
          .next { s with lastT := now, tooLarge := true, trace := s.trace ++ [.tooLarge c],
                         cmd := s.cfg.noCmd, cmdIdx := 0#1, len := 0#8, cnt := 0#8, st := .awaitingStart }))
    ∧ (∀ (s : State) (c : Byte),
      exec .feedLenMax s = .next { s with len := BitVec.ofNat 8 s.cfg.cap, st := .awaitingPayload }
      ∧ exec (.feedLenSmall c) s = .next { s with len := c, st := .awaitingPayload }
      ∧ (s.cfg.lenPolicy = .clamp → exec (.feedLenTooLarge c) s =
          .next { s with tooLarge := true, trace := s.trace ++ [.tooLarge c],
                         len := BitVec.ofNat 8 s.cfg.cap, st := .awaitingPayload })
      ∧ (s.cfg.lenPolicy = .reject → exec (.feedLenTooLarge c) s =
          .next { s with tooLarge := true, trace := s.trace ++ [.tooLarge c],
                         cmd := s.cfg.noCmd, cmdIdx := 0#1, len := 0#8, cnt := 0#8, st := .awaitingStart }))
    ∧ Config.default.lenPolicy = .clamp

/-- 40_parser.md R76: the byte is stored at index `cnt` of RB, `cnt` counts it, and the frame's payload ends when `cnt`
reaches `len`. Every other index of RB reads as before, and nothing else changes. -/
def Obligations.PayloadByteIsAppended : Prop :=
  (∀ (s : State) (c : Byte) (now : Nat), s.takesByteInTime now → s.st = .awaitingPayload → s.cnt.toNat < s.cfg.cap →
      ∃ t, exec (.feed c now) s = .next t
        ∧ rbByte t s.cnt.toNat = c
        ∧ (∀ a, a ≠ s.cnt.toNat → rbByte t a = rbByte s a)
        ∧ t = { s with lastT := now, rb := t.rb, cnt := s.cnt + 1#8,
                       st := if s.cnt + 1#8 = s.len then .awaitingEnd else .awaitingPayload })
    ∧ (∀ (s : State) (c : Byte), s.cnt.toNat < s.cfg.cap →
      ∃ t, exec (.feedPayloadByte c) s = .next t
        ∧ rbByte t s.cnt.toNat = c
        ∧ (∀ a, a ≠ s.cnt.toNat → rbByte t a = rbByte s a)
        ∧ t = { s with rb := t.rb, cnt := s.cnt + 1#8, st := if s.cnt + 1#8 = s.len then .awaitingEnd else s.st })
    ∧ (∀ (s : State) (c : Byte), s.cfg.cap ≤ s.cnt.toNat →
      exec (.feedPayloadByte c) s = .fault (.bufferIndex s.cnt.toNat))

/-- 40_parser.md R77: at ETX the frame is dispatched, on the registers as they stand, and then the parser returns to
`AwaitingStart` with its frame registers cleared. "This rule is the only place DISPATCH happens": a host operation that emits a
`Dispatch` is a FEED of ETX, in time, in `AwaitingEnd`, with no handler running; the event carries the frame's own identifier,
length and bytes. -/
def Obligations.OnlyEtxDispatchesTheFrame : Prop :=
  (∀ (s : State) (now : Nat), s.takesByteInTime now → s.st = .awaitingEnd → s.len.toNat ≤ s.cfg.cap →
      ∃ u, exec (.dispatch s.cmd s.len) { s with lastT := now } = .next u
        ∧ exec (.feed s.cfg.etx now) s =
          .next { u with cmd := s.cfg.noCmd, cmdIdx := 0#1, len := 0#8, cnt := 0#8, st := .awaitingStart })
    ∧ (∀ s : State, s.len.toNat ≤ s.cfg.cap →
      ∃ u, exec (.dispatch s.cmd s.len) s = .next u
        ∧ exec .feedEnd s =
          .next { u with cmd := s.cfg.noCmd, cmdIdx := 0#1, len := 0#8, cnt := 0#8, st := .awaitingStart })
    ∧ (∀ (i : Instr) (s t : State) (kind : DispatchKind) (h : HandlerId) (cmd : CmdId) (n : Byte) (p : List Byte),
      i.isRecord = true → exec i s = .next t → t.trace = s.trace ++ [.dispatch kind h cmd n p] →
      (∃ now, i = .feed s.cfg.etx now ∧ s.takesByteInTime now)
      ∧ s.st = .awaitingEnd ∧ cmd = s.cmd ∧ n = s.len ∧ p = (List.range s.len.toNat).map (rbByte s)
      ∧ t.st = .awaitingStart ∧ t.inHandler = true)

/-- 40_parser.md R78: an STX where ETX is due aborts the frame silently and starts the next one. -/
def Obligations.StxInAwaitingEndRestartsSilently : Prop :=
  (∀ (s : State) (now : Nat), s.takesByteInTime now → s.st = .awaitingEnd → s.cfg.stx ≠ s.cfg.etx →
      exec (.feed s.cfg.stx now) s =
        .next { s with lastT := now, cmd := s.cfg.noCmd, cmdIdx := 0#1, len := 0#8, cnt := 0#8, st := .awaitingCommand })
    ∧ (∀ s : State, exec .feedResync s =
        .next { s with cmd := s.cfg.noCmd, cmdIdx := 0#1, len := 0#8, cnt := 0#8, st := .awaitingCommand })

/-- 40_parser.md R79 (the spec's decision D6): any other byte where ETX is due aborts to `AwaitingStart`. -/
def Obligations.OtherByteInAwaitingEndAborts : Prop :=
  (∀ (s : State) (c : Byte) (now : Nat), s.takesByteInTime now → s.st = .awaitingEnd → c ≠ s.cfg.etx → c ≠ s.cfg.stx →
      exec (.feed c now) s =
        .next { s with lastT := now, cmd := s.cfg.noCmd, cmdIdx := 0#1, len := 0#8, cnt := 0#8, st := .awaitingStart })
    ∧ (∀ (s : State) (c : Byte), exec (.feedEndAbort c) s =
        .next { s with cmd := s.cfg.noCmd, cmdIdx := 0#1, len := 0#8, cnt := 0#8, st := .awaitingStart })

/-- 40_parser.md R67: a FEED while a handler runs is refused and changes nothing, not even `last_t`; only the sticky mark of
60_exceptions.md R110 is set (held as the list of reasons: notes/assumptions/5.md). -/
def Obligations.FeedDuringHandlerIsRefused : Prop :=
  ∀ (s : State) (c : Byte) (now : Nat), s.inHandler = true →
    exec (.feed c now) s = .next { s with refusals := s.refusals ++ [.feedDuringHandler] }

/-- 40_parser.md R68: elapsed time is unsigned subtraction modulo 2^CLOCK_WIDTH; a clock sample behind `last_t` measures
across the wrap. -/
def Obligations.ElapsedTimeWrapsOnce : Prop :=
  ∀ (s : State) (now : Nat), s.lastT < 2 ^ s.cfg.clockWidth → now < 2 ^ s.cfg.clockWidth →
    (s.lastT ≤ now → elapsed now s = now - s.lastT)
    ∧ (now < s.lastT → elapsed now s = 2 ^ s.cfg.clockWidth - s.lastT + now)
    ∧ elapsed now s < 2 ^ s.cfg.clockWidth

/-- 40_parser.md R69: a byte more than T_STALE after the last one, outside `AwaitingStart`, discards the frame and is then
taken in `AwaitingStart`; a byte at most T_STALE after it is not late ("exceeds" is strict). -/
def Obligations.StaleFrameIsDiscardedBeforeTheByte : Prop :=
  (∀ (s : State) (c : Byte) (now : Nat), s.inHandler = false → s.st ≠ .awaitingStart → s.cfg.tStale < elapsed now s →
      (c = s.cfg.stx → exec (.feed c now) s =
        .next { s with lastT := now, cmd := s.cfg.noCmd, cmdIdx := 0#1, len := 0#8, cnt := 0#8, st := .awaitingCommand })
      ∧ (c ≠ s.cfg.stx → exec (.feed c now) s =
        .next { s with lastT := now, cmd := s.cfg.noCmd, cmdIdx := 0#1, len := 0#8, cnt := 0#8, st := .awaitingStart }))
    ∧ (∀ (s : State) (now : Nat), elapsed now s ≤ s.cfg.tStale ∨ s.st = .awaitingStart → isStale now s = false)

/-- 40_parser.md R70: every admitted FEED writes `last_t`, whatever the byte's class; a refused one does not. -/
def Obligations.EveryAdmittedFeedStampsTheClock : Prop :=
  ∀ (s t : State) (c : Byte) (now : Nat), exec (.feed c now) s = .next t →
    (s.inHandler = false → t.lastT = now) ∧ (s.inHandler = true → t.lastT = s.lastT)

/-- 40_parser.md R80 against 30_encoding.md R61: after admission, staleness check and timestamp, FEED does what the row of the
byte table for (st, c) does; where `st` is no state it faults `BadState` (R62). -/
def Obligations.FeedRunsTheRowOfItsKey : Prop :=
  ∀ (s : State) (c : Byte) (now : Nat), s.cfg.wf = true → s.inHandler = false →
    (∀ i, decodeKey s.cfg (staleReset now s).st c = some i →
      exec (.feed c now) s = exec i { staleReset now s with lastT := now })
    ∧ (decodeKey s.cfg (staleReset now s).st c = none → exec (.feed c now) s = .fault .badState)

/-- What a FEED that goes on leaves alone: the configuration, the registry (10_state.md R28), the host's pending records, the
returned result (FEED returns nothing, 40_parser.md R83), the model's own counter, and every byte of RB but the one at index
`cnt`; when admitted it sets no refused mark and clears no flag (10_state.md R27). -/
def Obligations.FeedFrame : Prop :=
  ∀ (s t : State) (c : Byte) (now : Nat), exec (.feed c now) s = .next t →
    t.cfg = s.cfg ∧ t.reg = s.reg ∧ t.port = s.port ∧ t.result = s.result ∧ t.free = s.free
    ∧ (∀ a, a ≠ s.cnt.toNat → rbByte t a = rbByte s a)
    ∧ (¬ (s.st = .awaitingPayload ∧ s.takesByteInTime now) → t.rb = s.rb)
    ∧ (s.inHandler = false → t.refusals = s.refusals)
    ∧ (s.tooLarge = true → t.tooLarge = true)

/-! ### DISPATCH, REGISTER, HANDLER_RETURN -/

/-- 41_dispatch.md R85: an exact match invokes its handler, whatever the identifier (INVALID_CMD and NO_CMD included), with
exactly the bytes RB[0..n). Nothing but the trace and `in_handler` changes. -/
def Obligations.ExactMatchInvokesItsHandler : Prop :=
  ∀ (s : State) (cmd : CmdId) (n : Byte) (h : HandlerId), n.toNat ≤ s.cfg.cap → regLookup s cmd = some h →
    exec (.dispatch cmd n) s =
      .next { s with trace := s.trace ++ [.dispatch .exact h cmd n ((List.range n.toNat).map (rbByte s))],
                     inHandler := true }

/-- 41_dispatch.md R86: with no exact match the fallback handler is invoked, once, with the identifier as received. -/
def Obligations.FallbackHandlesTheUnregistered : Prop :=
  ∀ (s : State) (cmd : CmdId) (n : Byte) (f : HandlerId), n.toNat ≤ s.cfg.cap → regLookup s cmd = none →
    regLookup s s.cfg.invalidCmd = some f →
    exec (.dispatch cmd n) s =
      .next { s with trace := s.trace ++ [.dispatch .fallback f cmd n ((List.range n.toNat).map (rbByte s))],
                     inHandler := true }

/-- 41_dispatch.md R87: with neither, the frame is dropped silently: nothing changes. -/
def Obligations.UnregisteredFrameIsDropped : Prop :=
  ∀ (s : State) (cmd : CmdId) (n : Byte), n.toNat ≤ s.cfg.cap → regLookup s cmd = none →
    regLookup s s.cfg.invalidCmd = none → exec (.dispatch cmd n) s = .next s

/-- 20_memory.md R36 through 41_dispatch.md R84: a DISPATCH of more bytes than the buffer has faults `BufferIndex`. -/
def Obligations.DispatchBeyondTheBufferFaults : Prop :=
  ∀ (s : State) (cmd : CmdId) (n : Byte), s.cfg.cap < n.toNat → exec (.dispatch cmd n) s = .fault (.bufferIndex n.toNat)

/-- 41_dispatch.md R90: REGISTER installs or overwrites the handler of exactly its identifier (NO_CMD and INVALID_CMD
included) and changes nothing else; while a handler runs it is refused (the mark: notes/assumptions/5.md). -/
def Obligations.RegisterInstallsOrOverwrites : Prop :=
  (∀ (s : State) (id : CmdId) (h : HandlerId), s.inHandler = false →
      ∃ t, exec (.register id h) s = .next t
        ∧ regLookup t id = some h
        ∧ (∀ id', id' ≠ id → regLookup t id' = regLookup s id')
        ∧ t = { s with reg := t.reg })
    ∧ (∀ (s : State) (id : CmdId) (h : HandlerId), s.inHandler = true →
      exec (.register id h) s = .next { s with refusals := s.refusals ++ [.registerDuringHandler] })

/-- 20_memory.md R43 (derived by the spec): a second REGISTER of the same pair changes nothing. -/
def Obligations.RegisterIsIdempotent : Prop :=
  ∀ (s t : State) (id : CmdId) (h : HandlerId), s.inHandler = false → exec (.register id h) s = .next t →
    exec (.register id h) t = .next t

/-- 41_dispatch.md R91 (derived by the spec) for CMD_WIDTH = 2: no FEED dispatches a frame whose identifier holds a letter of
the case that `fold` removes, so a handler registered under such an identifier is never selected by exact match. -/
def Obligations.UnfoldedIdentifierIsNeverDispatched : Prop :=
  ∀ (s t : State) (c : Byte) (now : Nat) (kind : DispatchKind) (h : HandlerId) (id : CmdId) (n : Byte) (p : List Byte),
    s.Inv → s.cfg.cmdWidth = .two →
    fold s.cfg.caseFold id.first ≠ id.first ∨ fold s.cfg.caseFold id.second ≠ id.second →
    exec (.feed c now) s = .next t → t.trace ≠ s.trace ++ [.dispatch kind h id n p]

/-- 41_dispatch.md R92: HANDLER_RETURN clears `in_handler` and nothing else; with no handler running it is refused (the mark:
notes/assumptions/5.md). -/
def Obligations.HandlerReturnClearsOnlyTheHandshake : Prop :=
  (∀ s : State, s.inHandler = true → exec .handlerReturn s = .next { s with inHandler := false })
    ∧ (∀ s : State, s.inHandler = false →
      exec .handlerReturn s = .next { s with refusals := s.refusals ++ [.returnWithoutHandler] })

/-! ### SEND -/

/-- 42_encoder.md R94: an absent payload gives length 0, whatever `n` is. Only the trace changes. -/
def Obligations.AbsentPayloadSendsLengthZero : Prop :=
  ∀ (s : State) (id : CmdId) (n : Nat),
    exec (.send id n none) s =
      .next { s with trace := s.trace ++ [.txFrame ([s.cfg.stx] ++ cmdbytes s.cfg.cmdWidth id ++ [0x00#8] ++ [s.cfg.etx])] }

/-- 42_encoder.md R95, R96: a supplied payload is clamped to MAX_PAYLOAD_SIZE and sent as one frame, nothing escaped, nothing
folded, no truncation reported; the frame is `frame(id, p[0..L))` of 30_encoding.md R52, 4 + L or 5 + L bytes long. -/
def Obligations.SendEmitsTheClampedFrame : Prop :=
  ∀ (s : State) (id : CmdId) (n : Nat) (p : List Byte), min n s.cfg.maxPayload ≤ p.length →
    exec (.send id n (some p)) s =
      .next { s with trace := s.trace ++
        [.txFrame ([s.cfg.stx] ++ cmdbytes s.cfg.cmdWidth id ++ [BitVec.ofNat 8 (min n s.cfg.maxPayload)]
          ++ p.take (min n s.cfg.maxPayload) ++ [s.cfg.etx])] }
    ∧ [s.cfg.stx] ++ cmdbytes s.cfg.cmdWidth id ++ [BitVec.ofNat 8 (min n s.cfg.maxPayload)]
          ++ p.take (min n s.cfg.maxPayload) ++ [s.cfg.etx] = frame s.cfg id (p.take (min n s.cfg.maxPayload))
    ∧ (frame s.cfg id (p.take (min n s.cfg.maxPayload))).length =
        (match s.cfg.cmdWidth with | .one => 4 | .two => 5) + min n s.cfg.maxPayload
    ∧ (s.cfg.wf = true → (BitVec.ofNat 8 (min n s.cfg.maxPayload)).toNat = min n s.cfg.maxPayload)

/-- 42_encoder.md R98: a supplied sequence shorter than the clamped length is refused: nothing is emitted, nothing changes but
the sticky mark of 60_exceptions.md R110 (held as the list of reasons: notes/assumptions/5.md). A longer one is always
admitted. -/
def Obligations.ShortPayloadIsRefused : Prop :=
  ∀ (s : State) (id : CmdId) (n : Nat) (p : List Byte),
    (p.length < min n s.cfg.maxPayload →
      exec (.send id n (some p)) s = .next { s with refusals := s.refusals ++ [.shortPayload] })
    ∧ (min n s.cfg.maxPayload ≤ p.length → ∃ t, exec (.send id n (some p)) s = .next t ∧ t.refusals = s.refusals)

/-- 42_encoder.md R99, 20_memory.md R46: an admitted SEND commutes with every other host operation: same receive side, same
order of its own and of the other side's events. -/
def Obligations.SendCommutesWithTheReceiveSide : Prop :=
  ∀ (s t : State) (i : Instr) (id : CmdId) (n : Nat) (payload : Option (List Byte)),
    i.isRecord = true → (∀ id' n' p', i ≠ .send id' n' p') → refusalOf (.send id n payload) s = none → exec i s = .next t →
    ∃ s₁ u v, exec (.send id n payload) s = .next s₁ ∧ exec i s₁ = .next u ∧ exec (.send id n payload) t = .next v
      ∧ u.receiveSide = v.receiveSide ∧ u.txEvents = v.txEvents ∧ u.rxEvents = v.rxEvents

/-! ### RESET, STATUS_READ, reserved selectors -/

/-- 43_control.md R100: RESET is admitted in every state and puts every register at its reset value, empties the registry and
ends a handler's handshake, as power-on does. The trace stays (R100), and so does the refused mark (60_exceptions.md R110, held
as the list of reasons: DESIGN CHOICE, notes/assumptions/5.md). That the host's pending records and the last result stay is the
model's choice (DESIGN CHOICE, notes/assumptions/12.md and 7.md). What RB holds afterwards is unspecified, and this statement
says nothing of it. -/
def Obligations.ResetRestoresTheResetValues : Prop :=
  ∀ s : State, ∃ t, exec .reset s = .next t
    ∧ (∀ id, regLookup t id = none)
    ∧ t = { s with st := .awaitingStart, cmd := s.cfg.noCmd, cmdIdx := 0#1, len := 0#8, cnt := 0#8, lastT := 0,
                   tooLarge := false, inHandler := false, reg := [], rb := t.rb, free := t.free }
    ∧ State.resetWith s.cfg = { t with rb := [], trace := [], refusals := [], port := [], result := none, free := 0 }

/-- 43_control.md R101, 10_state.md R27: STATUS_READ returns STATUS, bit 0 `too_large` and bits 7:1 zero, and has no side
effect. (Where the value is returned, the field `result`, is the model's choice: notes/assumptions/7.md.) -/
def Obligations.StatusReadReturnsTheStickyBit : Prop :=
  ∀ s : State, exec .statusRead s = .next { s with result := some (if s.tooLarge then 0x01#8 else 0x00#8) }

/-- 30_encoding.md R62: selectors 0b110 and 0b111 are refused `ReservedOp`: no state changes but the sticky mark (held
as the list of reasons: notes/assumptions/5.md). -/
def Obligations.ReservedSelectorsAreRefused : Prop :=
  ∀ s : State, exec .reserved110 s = .next { s with refusals := s.refusals ++ [.reservedOp] }
    ∧ exec .reserved111 s = .next { s with refusals := s.refusals ++ [.reservedOp] }

/-! ### Rules of the whole machine -/

/-- 60_exceptions.md R110, on the conditions of R109 (`refusalOf`): a refused operation changes nothing but the sticky mark, which
takes its reason (a list of reasons: notes/assumptions/5.md); an admitted one leaves the mark alone; so no operation clears it. -/
def Obligations.RefusedOperationsChangeOnlyTheMark : Prop :=
  ∀ (i : Instr) (s : State),
    (∀ r, refusalOf i s = some r → exec i s = .next { s with refusals := s.refusals ++ [r] })
    ∧ (refusalOf i s = none → ∀ t, exec i s = .next t → t.refusals = s.refusals)

/-- 40_parser.md R81, 60_exceptions.md R111 (derived by the spec): from a state that meets the invariant every host operation
goes on; `BufferIndex` and `BadState` are not reached. -/
def Obligations.NoHostOperationStops : Prop :=
  ∀ (s : State) (i : Instr), s.Inv → i.isRecord = true → ∃ t, exec i s = .next t

/-- 10_state.md R30, 60_exceptions.md R114: the trace only grows, by at most one event an operation. -/
def Obligations.TraceGrowsByAtMostOneEvent : Prop :=
  ∀ (i : Instr) (s t : State), exec i s = .next t → t.trace = s.trace ∨ ∃ e, t.trace = s.trace ++ [e]

/-- 10_state.md R27: `too_large` is set exactly by a LEN byte above CAP (the `TooLarge` event) and cleared only by RESET. -/
def Obligations.TooLargeIsStickyUntilReset : Prop :=
  ∀ (i : Instr) (s t : State), exec i s = .next t → i ≠ .reset →
    (t.tooLarge = true ↔ s.tooLarge = true ∨ ∃ v, t.trace = s.trace ++ [.tooLarge v])

/-- 10_state.md R33: no operation changes the configuration. -/
def Obligations.ConfigurationIsFixed : Prop :=
  ∀ s t : State, step s = .next t → t.cfg = s.cfg

/-- 10_state.md R20: an admitted FEED moves `st` only along the parser's transitions, from the state the staleness check left;
every other host operation but RESET leaves `st` alone (R19). -/
def Obligations.ParserMovesOnlyAlongItsTransitions : Prop :=
  (∀ (s t : State) (c : Byte) (now : Nat), s.inHandler = false → exec (.feed c now) s = .next t →
      ((staleReset now s).st = .awaitingStart ∧ (t.st = .awaitingStart ∨ t.st = .awaitingCommand))
      ∨ ((staleReset now s).st = .awaitingCommand ∧ (t.st = .awaitingCommand ∨ t.st = .awaitingLength))
      ∨ ((staleReset now s).st = .awaitingLength
          ∧ (t.st = .awaitingEnd ∨ t.st = .awaitingPayload ∨ (t.st = .awaitingStart ∧ s.cfg.lenPolicy = .reject)))
      ∨ ((staleReset now s).st = .awaitingPayload ∧ (t.st = .awaitingPayload ∨ t.st = .awaitingEnd))
      ∨ ((staleReset now s).st = .awaitingEnd ∧ (t.st = .awaitingStart ∨ t.st = .awaitingCommand)))
    ∧ (∀ (i : Instr) (s t : State), i.isRecord = true → (∀ c now, i ≠ .feed c now) → i ≠ .reset → exec i s = .next t →
        t.st = s.st)

/-- 10_state.md R28: only REGISTER and RESET write the registry; no other operation of any kind does, and REGISTER removes no
entry. -/
def Obligations.OnlyRegisterAndResetWriteTheRegistry : Prop :=
  ∀ (i : Instr) (s t : State), exec i s = .next t → i ≠ .reset →
    ((∀ id h, i ≠ .register id h) → t.reg = s.reg)
    ∧ (∀ id h, regLookup s id = some h → ∃ h', regLookup t id = some h')

/-- 10_state.md R25: "FEED in `AwaitingPayload` writes byte `cnt`", and nothing else writes RB but RESET. -/
def Obligations.OnlyPayloadBytesWriteTheBuffer : Prop :=
  ∀ (i : Instr) (s t : State), i.isRecord = true → i ≠ .reset → exec i s = .next t →
    (∀ a, a ≠ s.cnt.toNat → rbByte t a = rbByte s a)
    ∧ (∀ a, rbByte t a ≠ rbByte s a →
        a = s.cnt.toNat ∧ s.st = .awaitingPayload ∧ ∃ c now, i = .feed c now ∧ s.takesByteInTime now ∧ rbByte t a = c)

/-- 70_reset_and_hazards.md R134 (derived by the spec): bytes without STX, fed from `AwaitingStart`, leave the parser there and
emit nothing, at whatever times they come. -/
def Obligations.BytesWithoutStxNeverLeaveAwaitingStart : Prop :=
  ∀ (bytes : List (Byte × Nat)) (s : State), s.inHandler = false → s.st = .awaitingStart →
    (∀ b ∈ bytes, b.1 ≠ s.cfg.stx) →
    ∃ last, runOps (feeds bytes) s = .next { s with lastT := last }

/-- 42_encoder.md R99, 70_reset_and_hazards.md R134 (derived by the spec), the document's round trip: the bytes of a SEND, fed
to an instance of the same configuration at a steady pace, dispatch exactly once, with the identifier and the clamped payload
as sent. The first byte meets `AwaitingStart`, or `AwaitingEnd` in time, or comes more than T_STALE after the last byte.
`CmdId.folded` and `L ≤ CAP` are R99's own premises. -/
def Obligations.SentFramesAreReceived : Prop :=
  ∀ (s a a' : State) (id : CmdId) (n : Nat) (payload : Option (List Byte)) (bytes : List Byte) (times : List Nat)
    (h : HandlerId) (kind : DispatchKind),
    s.Inv → s.inHandler = false →
    (s.st = .awaitingStart ∨ s.st = .awaitingEnd ∨ ∃ t₀ ∈ times.head?, isStale t₀ s = true) →
    a.cfg = s.cfg → exec (.send id n payload) a = .next a' → a'.trace = a.trace ++ [.txFrame bytes] →
    id.fits s.cfg.cmdWidth = true → CmdId.folded s.cfg id → sendLength s.cfg n payload ≤ s.cfg.cap →
    times.length = bytes.length → (∀ t ∈ times, t < 2 ^ s.cfg.clockWidth) → steady s.cfg times = true →
    ((kind = .exact ∧ regLookup s id = some h)
      ∨ (kind = .fallback ∧ regLookup s id = none ∧ regLookup s s.cfg.invalidCmd = some h)) →
    ∃ t, runOps (feeds (bytes.zip times)) s = .next t
      ∧ t.trace = s.trace ++ [.dispatch kind h id (BitVec.ofNat 8 (sendLength s.cfg n payload))
          ((suppliedBytes payload).take (sendLength s.cfg n payload))]
      ∧ t.st = .awaitingStart ∧ t.inHandler = true ∧ t.tooLarge = s.tooLarge ∧ t.refusals = s.refusals

/-- 10_state.md R25, R31(e) (derived by the spec): "no rule ever makes a byte that the current frame has not written
observable". Two states that differ only in such bytes take the same step: both stop alike, or both go on to states that
again differ only in such bytes, and so have the same registers, trace, marks and result. -/
def Obligations.StaleBufferBytesAreUnobservable : Prop :=
  ∀ s s' : State, s.Inv → s'.Inv → s.agreesUpToStaleBytes s' →
    sameOutcome State.agreesUpToStaleBytes (step s) (step s')

/-- 00_scope.md R9, 92 D24: `HandlerId` is an abstract type. Rename the handlers of a state and of an operation by any relation
whatever, and the outcomes differ by that renaming only: no operation looks into a handler's identity. (Identities are the
names that the parameter `Config.handlerType` admits: DESIGN CHOICE, notes/assumptions/3.md.) -/
def Obligations.HandlerIdentitiesAreAbstract : Prop :=
  ∀ (R : HandlerId → HandlerId → Prop) (i i' : Instr) (s s' : State), s.sameUpToHandlers R s' →
    sameOperationUpToHandler R i i' → sameOutcome (State.sameUpToHandlers R) (exec i s) (exec i' s')
end

