-- ==== Sys2Proof/Laws/State.lean ====
section
/-! SUPPORT. What each update of State (Machine/Ops.lean, Flags.lean, Fetch.lean) leaves in each field: one lemma per field per update. -/

namespace Sys2Proof.Laws

open Sys2Proof.Machine

variable (s : State)

/-! ### setSt -/

@[simp] theorem setSt_cfg (p : ParserState) : (setSt p s).cfg = s.cfg := rfl
@[simp] theorem setSt_st (p : ParserState) : (setSt p s).st = p := rfl
@[simp] theorem setSt_cmd (p : ParserState) : (setSt p s).cmd = s.cmd := rfl
@[simp] theorem setSt_cmdIdx (p : ParserState) : (setSt p s).cmdIdx = s.cmdIdx := rfl
@[simp] theorem setSt_len (p : ParserState) : (setSt p s).len = s.len := rfl
@[simp] theorem setSt_cnt (p : ParserState) : (setSt p s).cnt = s.cnt := rfl
@[simp] theorem setSt_rb (p : ParserState) : (setSt p s).rb = s.rb := rfl
@[simp] theorem setSt_lastT (p : ParserState) : (setSt p s).lastT = s.lastT := rfl
@[simp] theorem setSt_tooLarge (p : ParserState) : (setSt p s).tooLarge = s.tooLarge := rfl
@[simp] theorem setSt_reg (p : ParserState) : (setSt p s).reg = s.reg := rfl
@[simp] theorem setSt_inHandler (p : ParserState) : (setSt p s).inHandler = s.inHandler := rfl
@[simp] theorem setSt_trace (p : ParserState) : (setSt p s).trace = s.trace := rfl
@[simp] theorem setSt_refusals (p : ParserState) : (setSt p s).refusals = s.refusals := rfl
@[simp] theorem setSt_port (p : ParserState) : (setSt p s).port = s.port := rfl
@[simp] theorem setSt_result (p : ParserState) : (setSt p s).result = s.result := rfl
@[simp] theorem setSt_free (p : ParserState) : (setSt p s).free = s.free := rfl

/-! ### setCmd -/

@[simp] theorem setCmd_cfg (id : CmdId) : (setCmd id s).cfg = s.cfg := rfl
@[simp] theorem setCmd_st (id : CmdId) : (setCmd id s).st = s.st := rfl
@[simp] theorem setCmd_cmd (id : CmdId) : (setCmd id s).cmd = id := rfl
@[simp] theorem setCmd_cmdIdx (id : CmdId) : (setCmd id s).cmdIdx = s.cmdIdx := rfl
@[simp] theorem setCmd_len (id : CmdId) : (setCmd id s).len = s.len := rfl
@[simp] theorem setCmd_cnt (id : CmdId) : (setCmd id s).cnt = s.cnt := rfl
@[simp] theorem setCmd_rb (id : CmdId) : (setCmd id s).rb = s.rb := rfl
@[simp] theorem setCmd_lastT (id : CmdId) : (setCmd id s).lastT = s.lastT := rfl
@[simp] theorem setCmd_tooLarge (id : CmdId) : (setCmd id s).tooLarge = s.tooLarge := rfl
@[simp] theorem setCmd_reg (id : CmdId) : (setCmd id s).reg = s.reg := rfl
@[simp] theorem setCmd_inHandler (id : CmdId) : (setCmd id s).inHandler = s.inHandler := rfl
@[simp] theorem setCmd_trace (id : CmdId) : (setCmd id s).trace = s.trace := rfl
@[simp] theorem setCmd_refusals (id : CmdId) : (setCmd id s).refusals = s.refusals := rfl
@[simp] theorem setCmd_port (id : CmdId) : (setCmd id s).port = s.port := rfl
@[simp] theorem setCmd_result (id : CmdId) : (setCmd id s).result = s.result := rfl
@[simp] theorem setCmd_free (id : CmdId) : (setCmd id s).free = s.free := rfl

/-! ### setCmdFirst -/

@[simp] theorem setCmdFirst_cfg (b : Byte) : (setCmdFirst b s).cfg = s.cfg := rfl
@[simp] theorem setCmdFirst_st (b : Byte) : (setCmdFirst b s).st = s.st := rfl
@[simp] theorem setCmdFirst_cmd (b : Byte) : (setCmdFirst b s).cmd = ⟨b, s.cmd.second⟩ := rfl
@[simp] theorem setCmdFirst_cmdIdx (b : Byte) : (setCmdFirst b s).cmdIdx = 1#1 := rfl
@[simp] theorem setCmdFirst_len (b : Byte) : (setCmdFirst b s).len = s.len := rfl
@[simp] theorem setCmdFirst_cnt (b : Byte) : (setCmdFirst b s).cnt = s.cnt := rfl
@[simp] theorem setCmdFirst_rb (b : Byte) : (setCmdFirst b s).rb = s.rb := rfl
@[simp] theorem setCmdFirst_lastT (b : Byte) : (setCmdFirst b s).lastT = s.lastT := rfl
@[simp] theorem setCmdFirst_tooLarge (b : Byte) : (setCmdFirst b s).tooLarge = s.tooLarge := rfl
@[simp] theorem setCmdFirst_reg (b : Byte) : (setCmdFirst b s).reg = s.reg := rfl
@[simp] theorem setCmdFirst_inHandler (b : Byte) : (setCmdFirst b s).inHandler = s.inHandler := rfl
@[simp] theorem setCmdFirst_trace (b : Byte) : (setCmdFirst b s).trace = s.trace := rfl
@[simp] theorem setCmdFirst_refusals (b : Byte) : (setCmdFirst b s).refusals = s.refusals := rfl
@[simp] theorem setCmdFirst_port (b : Byte) : (setCmdFirst b s).port = s.port := rfl
@[simp] theorem setCmdFirst_result (b : Byte) : (setCmdFirst b s).result = s.result := rfl
@[simp] theorem setCmdFirst_free (b : Byte) : (setCmdFirst b s).free = s.free := rfl

/-! ### setCmdSecond -/

@[simp] theorem setCmdSecond_cfg (b : Byte) : (setCmdSecond b s).cfg = s.cfg := rfl
@[simp] theorem setCmdSecond_st (b : Byte) : (setCmdSecond b s).st = s.st := rfl
@[simp] theorem setCmdSecond_cmd (b : Byte) : (setCmdSecond b s).cmd = ⟨s.cmd.first, b⟩ := rfl
@[simp] theorem setCmdSecond_cmdIdx (b : Byte) : (setCmdSecond b s).cmdIdx = 0#1 := rfl
@[simp] theorem setCmdSecond_len (b : Byte) : (setCmdSecond b s).len = s.len := rfl
@[simp] theorem setCmdSecond_cnt (b : Byte) : (setCmdSecond b s).cnt = s.cnt := rfl
@[simp] theorem setCmdSecond_rb (b : Byte) : (setCmdSecond b s).rb = s.rb := rfl
@[simp] theorem setCmdSecond_lastT (b : Byte) : (setCmdSecond b s).lastT = s.lastT := rfl
@[simp] theorem setCmdSecond_tooLarge (b : Byte) : (setCmdSecond b s).tooLarge = s.tooLarge := rfl
@[simp] theorem setCmdSecond_reg (b : Byte) : (setCmdSecond b s).reg = s.reg := rfl
@[simp] theorem setCmdSecond_inHandler (b : Byte) : (setCmdSecond b s).inHandler = s.inHandler := rfl
@[simp] theorem setCmdSecond_trace (b : Byte) : (setCmdSecond b s).trace = s.trace := rfl
@[simp] theorem setCmdSecond_refusals (b : Byte) : (setCmdSecond b s).refusals = s.refusals := rfl
@[simp] theorem setCmdSecond_port (b : Byte) : (setCmdSecond b s).port = s.port := rfl
@[simp] theorem setCmdSecond_result (b : Byte) : (setCmdSecond b s).result = s.result := rfl
@[simp] theorem setCmdSecond_free (b : Byte) : (setCmdSecond b s).free = s.free := rfl

/-! ### setLen -/

@[simp] theorem setLen_cfg (n : Byte) : (setLen n s).cfg = s.cfg := rfl
@[simp] theorem setLen_st (n : Byte) : (setLen n s).st = s.st := rfl
@[simp] theorem setLen_cmd (n : Byte) : (setLen n s).cmd = s.cmd := rfl
@[simp] theorem setLen_cmdIdx (n : Byte) : (setLen n s).cmdIdx = s.cmdIdx := rfl
@[simp] theorem setLen_len (n : Byte) : (setLen n s).len = n := rfl
@[simp] theorem setLen_cnt (n : Byte) : (setLen n s).cnt = s.cnt := rfl
@[simp] theorem setLen_rb (n : Byte) : (setLen n s).rb = s.rb := rfl
@[simp] theorem setLen_lastT (n : Byte) : (setLen n s).lastT = s.lastT := rfl
@[simp] theorem setLen_tooLarge (n : Byte) : (setLen n s).tooLarge = s.tooLarge := rfl
@[simp] theorem setLen_reg (n : Byte) : (setLen n s).reg = s.reg := rfl
@[simp] theorem setLen_inHandler (n : Byte) : (setLen n s).inHandler = s.inHandler := rfl
@[simp] theorem setLen_trace (n : Byte) : (setLen n s).trace = s.trace := rfl
@[simp] theorem setLen_refusals (n : Byte) : (setLen n s).refusals = s.refusals := rfl
@[simp] theorem setLen_port (n : Byte) : (setLen n s).port = s.port := rfl
@[simp] theorem setLen_result (n : Byte) : (setLen n s).result = s.result := rfl
@[simp] theorem setLen_free (n : Byte) : (setLen n s).free = s.free := rfl

/-! ### setCnt -/

@[simp] theorem setCnt_cfg (n : Byte) : (setCnt n s).cfg = s.cfg := rfl
@[simp] theorem setCnt_st (n : Byte) : (setCnt n s).st = s.st := rfl
@[simp] theorem setCnt_cmd (n : Byte) : (setCnt n s).cmd = s.cmd := rfl
@[simp] theorem setCnt_cmdIdx (n : Byte) : (setCnt n s).cmdIdx = s.cmdIdx := rfl
@[simp] theorem setCnt_len (n : Byte) : (setCnt n s).len = s.len := rfl
@[simp] theorem setCnt_cnt (n : Byte) : (setCnt n s).cnt = n := rfl
@[simp] theorem setCnt_rb (n : Byte) : (setCnt n s).rb = s.rb := rfl
@[simp] theorem setCnt_lastT (n : Byte) : (setCnt n s).lastT = s.lastT := rfl
@[simp] theorem setCnt_tooLarge (n : Byte) : (setCnt n s).tooLarge = s.tooLarge := rfl
@[simp] theorem setCnt_reg (n : Byte) : (setCnt n s).reg = s.reg := rfl
@[simp] theorem setCnt_inHandler (n : Byte) : (setCnt n s).inHandler = s.inHandler := rfl
@[simp] theorem setCnt_trace (n : Byte) : (setCnt n s).trace = s.trace := rfl
@[simp] theorem setCnt_refusals (n : Byte) : (setCnt n s).refusals = s.refusals := rfl
@[simp] theorem setCnt_port (n : Byte) : (setCnt n s).port = s.port := rfl
@[simp] theorem setCnt_result (n : Byte) : (setCnt n s).result = s.result := rfl
@[simp] theorem setCnt_free (n : Byte) : (setCnt n s).free = s.free := rfl

/-! ### stamp -/

@[simp] theorem stamp_cfg (now : Nat) : (stamp now s).cfg = s.cfg := rfl
@[simp] theorem stamp_st (now : Nat) : (stamp now s).st = s.st := rfl
@[simp] theorem stamp_cmd (now : Nat) : (stamp now s).cmd = s.cmd := rfl
@[simp] theorem stamp_cmdIdx (now : Nat) : (stamp now s).cmdIdx = s.cmdIdx := rfl
@[simp] theorem stamp_len (now : Nat) : (stamp now s).len = s.len := rfl
@[simp] theorem stamp_cnt (now : Nat) : (stamp now s).cnt = s.cnt := rfl
@[simp] theorem stamp_rb (now : Nat) : (stamp now s).rb = s.rb := rfl
@[simp] theorem stamp_lastT (now : Nat) : (stamp now s).lastT = now := rfl
@[simp] theorem stamp_tooLarge (now : Nat) : (stamp now s).tooLarge = s.tooLarge := rfl
@[simp] theorem stamp_reg (now : Nat) : (stamp now s).reg = s.reg := rfl
@[simp] theorem stamp_inHandler (now : Nat) : (stamp now s).inHandler = s.inHandler := rfl
@[simp] theorem stamp_trace (now : Nat) : (stamp now s).trace = s.trace := rfl
@[simp] theorem stamp_refusals (now : Nat) : (stamp now s).refusals = s.refusals := rfl
@[simp] theorem stamp_port (now : Nat) : (stamp now s).port = s.port := rfl
@[simp] theorem stamp_result (now : Nat) : (stamp now s).result = s.result := rfl
@[simp] theorem stamp_free (now : Nat) : (stamp now s).free = s.free := rfl

/-! ### setInHandler -/

@[simp] theorem setInHandler_cfg (b : Bool) : (setInHandler b s).cfg = s.cfg := rfl
@[simp] theorem setInHandler_st (b : Bool) : (setInHandler b s).st = s.st := rfl
@[simp] theorem setInHandler_cmd (b : Bool) : (setInHandler b s).cmd = s.cmd := rfl
@[simp] theorem setInHandler_cmdIdx (b : Bool) : (setInHandler b s).cmdIdx = s.cmdIdx := rfl
@[simp] theorem setInHandler_len (b : Bool) : (setInHandler b s).len = s.len := rfl
@[simp] theorem setInHandler_cnt (b : Bool) : (setInHandler b s).cnt = s.cnt := rfl
@[simp] theorem setInHandler_rb (b : Bool) : (setInHandler b s).rb = s.rb := rfl
@[simp] theorem setInHandler_lastT (b : Bool) : (setInHandler b s).lastT = s.lastT := rfl
@[simp] theorem setInHandler_tooLarge (b : Bool) : (setInHandler b s).tooLarge = s.tooLarge := rfl
@[simp] theorem setInHandler_reg (b : Bool) : (setInHandler b s).reg = s.reg := rfl
@[simp] theorem setInHandler_inHandler (b : Bool) : (setInHandler b s).inHandler = b := rfl
@[simp] theorem setInHandler_trace (b : Bool) : (setInHandler b s).trace = s.trace := rfl
@[simp] theorem setInHandler_refusals (b : Bool) : (setInHandler b s).refusals = s.refusals := rfl
@[simp] theorem setInHandler_port (b : Bool) : (setInHandler b s).port = s.port := rfl
@[simp] theorem setInHandler_result (b : Bool) : (setInHandler b s).result = s.result := rfl
@[simp] theorem setInHandler_free (b : Bool) : (setInHandler b s).free = s.free := rfl

/-! ### setResult -/

@[simp] theorem setResult_cfg (r : Option Byte) : (setResult r s).cfg = s.cfg := rfl
@[simp] theorem setResult_st (r : Option Byte) : (setResult r s).st = s.st := rfl
@[simp] theorem setResult_cmd (r : Option Byte) : (setResult r s).cmd = s.cmd := rfl
@[simp] theorem setResult_cmdIdx (r : Option Byte) : (setResult r s).cmdIdx = s.cmdIdx := rfl
@[simp] theorem setResult_len (r : Option Byte) : (setResult r s).len = s.len := rfl
@[simp] theorem setResult_cnt (r : Option Byte) : (setResult r s).cnt = s.cnt := rfl
@[simp] theorem setResult_rb (r : Option Byte) : (setResult r s).rb = s.rb := rfl
@[simp] theorem setResult_lastT (r : Option Byte) : (setResult r s).lastT = s.lastT := rfl
@[simp] theorem setResult_tooLarge (r : Option Byte) : (setResult r s).tooLarge = s.tooLarge := rfl
@[simp] theorem setResult_reg (r : Option Byte) : (setResult r s).reg = s.reg := rfl
@[simp] theorem setResult_inHandler (r : Option Byte) : (setResult r s).inHandler = s.inHandler := rfl
@[simp] theorem setResult_trace (r : Option Byte) : (setResult r s).trace = s.trace := rfl
@[simp] theorem setResult_refusals (r : Option Byte) : (setResult r s).refusals = s.refusals := rfl
@[simp] theorem setResult_port (r : Option Byte) : (setResult r s).port = s.port := rfl
@[simp] theorem setResult_result (r : Option Byte) : (setResult r s).result = r := rfl
@[simp] theorem setResult_free (r : Option Byte) : (setResult r s).free = s.free := rfl

/-! ### setTooLarge -/

@[simp] theorem setTooLarge_cfg : (setTooLarge s).cfg = s.cfg := rfl
@[simp] theorem setTooLarge_st : (setTooLarge s).st = s.st := rfl
@[simp] theorem setTooLarge_cmd : (setTooLarge s).cmd = s.cmd := rfl
@[simp] theorem setTooLarge_cmdIdx : (setTooLarge s).cmdIdx = s.cmdIdx := rfl
@[simp] theorem setTooLarge_len : (setTooLarge s).len = s.len := rfl
@[simp] theorem setTooLarge_cnt : (setTooLarge s).cnt = s.cnt := rfl
@[simp] theorem setTooLarge_rb : (setTooLarge s).rb = s.rb := rfl
@[simp] theorem setTooLarge_lastT : (setTooLarge s).lastT = s.lastT := rfl
@[simp] theorem setTooLarge_tooLarge : (setTooLarge s).tooLarge = true := rfl
@[simp] theorem setTooLarge_reg : (setTooLarge s).reg = s.reg := rfl
@[simp] theorem setTooLarge_inHandler : (setTooLarge s).inHandler = s.inHandler := rfl
@[simp] theorem setTooLarge_trace : (setTooLarge s).trace = s.trace := rfl
@[simp] theorem setTooLarge_refusals : (setTooLarge s).refusals = s.refusals := rfl
@[simp] theorem setTooLarge_port : (setTooLarge s).port = s.port := rfl
@[simp] theorem setTooLarge_result : (setTooLarge s).result = s.result := rfl
@[simp] theorem setTooLarge_free : (setTooLarge s).free = s.free := rfl

/-! ### clearFrame -/

@[simp] theorem clearFrame_cfg : (clearFrame s).cfg = s.cfg := rfl
@[simp] theorem clearFrame_st : (clearFrame s).st = s.st := rfl
@[simp] theorem clearFrame_cmd : (clearFrame s).cmd = s.cfg.noCmd := rfl
@[simp] theorem clearFrame_cmdIdx : (clearFrame s).cmdIdx = 0#1 := rfl
@[simp] theorem clearFrame_len : (clearFrame s).len = 0#8 := rfl
@[simp] theorem clearFrame_cnt : (clearFrame s).cnt = 0#8 := rfl
@[simp] theorem clearFrame_rb : (clearFrame s).rb = s.rb := rfl
@[simp] theorem clearFrame_lastT : (clearFrame s).lastT = s.lastT := rfl
@[simp] theorem clearFrame_tooLarge : (clearFrame s).tooLarge = s.tooLarge := rfl
@[simp] theorem clearFrame_reg : (clearFrame s).reg = s.reg := rfl
@[simp] theorem clearFrame_inHandler : (clearFrame s).inHandler = s.inHandler := rfl
@[simp] theorem clearFrame_trace : (clearFrame s).trace = s.trace := rfl
@[simp] theorem clearFrame_refusals : (clearFrame s).refusals = s.refusals := rfl
@[simp] theorem clearFrame_port : (clearFrame s).port = s.port := rfl
@[simp] theorem clearFrame_result : (clearFrame s).result = s.result := rfl
@[simp] theorem clearFrame_free : (clearFrame s).free = s.free := rfl

/-! ### emit -/

@[simp] theorem emit_cfg (e : Event) : (emit e s).cfg = s.cfg := rfl
@[simp] theorem emit_st (e : Event) : (emit e s).st = s.st := rfl
@[simp] theorem emit_cmd (e : Event) : (emit e s).cmd = s.cmd := rfl
@[simp] theorem emit_cmdIdx (e : Event) : (emit e s).cmdIdx = s.cmdIdx := rfl
@[simp] theorem emit_len (e : Event) : (emit e s).len = s.len := rfl
@[simp] theorem emit_cnt (e : Event) : (emit e s).cnt = s.cnt := rfl
@[simp] theorem emit_rb (e : Event) : (emit e s).rb = s.rb := rfl
@[simp] theorem emit_lastT (e : Event) : (emit e s).lastT = s.lastT := rfl
@[simp] theorem emit_tooLarge (e : Event) : (emit e s).tooLarge = s.tooLarge := rfl
@[simp] theorem emit_reg (e : Event) : (emit e s).reg = s.reg := rfl
@[simp] theorem emit_inHandler (e : Event) : (emit e s).inHandler = s.inHandler := rfl
@[simp] theorem emit_trace (e : Event) : (emit e s).trace = s.trace ++ [e] := rfl
@[simp] theorem emit_refusals (e : Event) : (emit e s).refusals = s.refusals := rfl
@[simp] theorem emit_port (e : Event) : (emit e s).port = s.port := rfl
@[simp] theorem emit_result (e : Event) : (emit e s).result = s.result := rfl
@[simp] theorem emit_free (e : Event) : (emit e s).free = s.free := rfl

/-! ### refuse -/

@[simp] theorem refuse_cfg (r : RefuseReason) : (refuse r s).cfg = s.cfg := rfl
@[simp] theorem refuse_st (r : RefuseReason) : (refuse r s).st = s.st := rfl
@[simp] theorem refuse_cmd (r : RefuseReason) : (refuse r s).cmd = s.cmd := rfl
@[simp] theorem refuse_cmdIdx (r : RefuseReason) : (refuse r s).cmdIdx = s.cmdIdx := rfl
@[simp] theorem refuse_len (r : RefuseReason) : (refuse r s).len = s.len := rfl
@[simp] theorem refuse_cnt (r : RefuseReason) : (refuse r s).cnt = s.cnt := rfl
@[simp] theorem refuse_rb (r : RefuseReason) : (refuse r s).rb = s.rb := rfl
@[simp] theorem refuse_lastT (r : RefuseReason) : (refuse r s).lastT = s.lastT := rfl
@[simp] theorem refuse_tooLarge (r : RefuseReason) : (refuse r s).tooLarge = s.tooLarge := rfl
@[simp] theorem refuse_reg (r : RefuseReason) : (refuse r s).reg = s.reg := rfl
@[simp] theorem refuse_inHandler (r : RefuseReason) : (refuse r s).inHandler = s.inHandler := rfl
@[simp] theorem refuse_trace (r : RefuseReason) : (refuse r s).trace = s.trace := rfl
@[simp] theorem refuse_refusals (r : RefuseReason) : (refuse r s).refusals = s.refusals ++ [r] := rfl
@[simp] theorem refuse_port (r : RefuseReason) : (refuse r s).port = s.port := rfl
@[simp] theorem refuse_result (r : RefuseReason) : (refuse r s).result = s.result := rfl
@[simp] theorem refuse_free (r : RefuseReason) : (refuse r s).free = s.free := rfl

/-! ### regWrite -/

@[simp] theorem regWrite_cfg (id : CmdId) (h : HandlerId) : (regWrite id h s).cfg = s.cfg := rfl
@[simp] theorem regWrite_st (id : CmdId) (h : HandlerId) : (regWrite id h s).st = s.st := rfl
@[simp] theorem regWrite_cmd (id : CmdId) (h : HandlerId) : (regWrite id h s).cmd = s.cmd := rfl
@[simp] theorem regWrite_cmdIdx (id : CmdId) (h : HandlerId) : (regWrite id h s).cmdIdx = s.cmdIdx := rfl
@[simp] theorem regWrite_len (id : CmdId) (h : HandlerId) : (regWrite id h s).len = s.len := rfl
@[simp] theorem regWrite_cnt (id : CmdId) (h : HandlerId) : (regWrite id h s).cnt = s.cnt := rfl
@[simp] theorem regWrite_rb (id : CmdId) (h : HandlerId) : (regWrite id h s).rb = s.rb := rfl
@[simp] theorem regWrite_lastT (id : CmdId) (h : HandlerId) : (regWrite id h s).lastT = s.lastT := rfl
@[simp] theorem regWrite_tooLarge (id : CmdId) (h : HandlerId) : (regWrite id h s).tooLarge = s.tooLarge := rfl
@[simp] theorem regWrite_reg (id : CmdId) (h : HandlerId) : (regWrite id h s).reg = Table.insert (regKey id) h s.reg := rfl
@[simp] theorem regWrite_inHandler (id : CmdId) (h : HandlerId) : (regWrite id h s).inHandler = s.inHandler := rfl
@[simp] theorem regWrite_trace (id : CmdId) (h : HandlerId) : (regWrite id h s).trace = s.trace := rfl
@[simp] theorem regWrite_refusals (id : CmdId) (h : HandlerId) : (regWrite id h s).refusals = s.refusals := rfl
@[simp] theorem regWrite_port (id : CmdId) (h : HandlerId) : (regWrite id h s).port = s.port := rfl
@[simp] theorem regWrite_result (id : CmdId) (h : HandlerId) : (regWrite id h s).result = s.result := rfl
@[simp] theorem regWrite_free (id : CmdId) (h : HandlerId) : (regWrite id h s).free = s.free := rfl

/-! ### forgetRb -/

@[simp] theorem forgetRb_cfg : (forgetRb s).cfg = s.cfg := rfl
@[simp] theorem forgetRb_st : (forgetRb s).st = s.st := rfl
@[simp] theorem forgetRb_cmd : (forgetRb s).cmd = s.cmd := rfl
@[simp] theorem forgetRb_cmdIdx : (forgetRb s).cmdIdx = s.cmdIdx := rfl
@[simp] theorem forgetRb_len : (forgetRb s).len = s.len := rfl
@[simp] theorem forgetRb_cnt : (forgetRb s).cnt = s.cnt := rfl
@[simp] theorem forgetRb_rb : (forgetRb s).rb = Memory.ofFn (Config.freeRbByte s.free) 0 s.cfg.cap := rfl
@[simp] theorem forgetRb_lastT : (forgetRb s).lastT = s.lastT := rfl
@[simp] theorem forgetRb_tooLarge : (forgetRb s).tooLarge = s.tooLarge := rfl
@[simp] theorem forgetRb_reg : (forgetRb s).reg = s.reg := rfl
@[simp] theorem forgetRb_inHandler : (forgetRb s).inHandler = s.inHandler := rfl
@[simp] theorem forgetRb_trace : (forgetRb s).trace = s.trace := rfl
@[simp] theorem forgetRb_refusals : (forgetRb s).refusals = s.refusals := rfl
@[simp] theorem forgetRb_port : (forgetRb s).port = s.port := rfl
@[simp] theorem forgetRb_result : (forgetRb s).result = s.result := rfl
@[simp] theorem forgetRb_free : (forgetRb s).free = s.free + 1 := rfl

/-! ### enterHandler -/

@[simp] theorem enterHandler_cfg (k : DispatchKind) (h : HandlerId) (cmd : CmdId) (n : Byte) (p : List Byte) : (enterHandler k h cmd n p s).cfg = s.cfg := rfl
@[simp] theorem enterHandler_st (k : DispatchKind) (h : HandlerId) (cmd : CmdId) (n : Byte) (p : List Byte) : (enterHandler k h cmd n p s).st = s.st := rfl
@[simp] theorem enterHandler_cmd (k : DispatchKind) (h : HandlerId) (cmd : CmdId) (n : Byte) (p : List Byte) : (enterHandler k h cmd n p s).cmd = s.cmd := rfl
@[simp] theorem enterHandler_cmdIdx (k : DispatchKind) (h : HandlerId) (cmd : CmdId) (n : Byte) (p : List Byte) : (enterHandler k h cmd n p s).cmdIdx = s.cmdIdx := rfl
@[simp] theorem enterHandler_len (k : DispatchKind) (h : HandlerId) (cmd : CmdId) (n : Byte) (p : List Byte) : (enterHandler k h cmd n p s).len = s.len := rfl
@[simp] theorem enterHandler_cnt (k : DispatchKind) (h : HandlerId) (cmd : CmdId) (n : Byte) (p : List Byte) : (enterHandler k h cmd n p s).cnt = s.cnt := rfl
@[simp] theorem enterHandler_rb (k : DispatchKind) (h : HandlerId) (cmd : CmdId) (n : Byte) (p : List Byte) : (enterHandler k h cmd n p s).rb = s.rb := rfl
@[simp] theorem enterHandler_lastT (k : DispatchKind) (h : HandlerId) (cmd : CmdId) (n : Byte) (p : List Byte) : (enterHandler k h cmd n p s).lastT = s.lastT := rfl
@[simp] theorem enterHandler_tooLarge (k : DispatchKind) (h : HandlerId) (cmd : CmdId) (n : Byte) (p : List Byte) : (enterHandler k h cmd n p s).tooLarge = s.tooLarge := rfl
@[simp] theorem enterHandler_reg (k : DispatchKind) (h : HandlerId) (cmd : CmdId) (n : Byte) (p : List Byte) : (enterHandler k h cmd n p s).reg = s.reg := rfl
@[simp] theorem enterHandler_inHandler (k : DispatchKind) (h : HandlerId) (cmd : CmdId) (n : Byte) (p : List Byte) : (enterHandler k h cmd n p s).inHandler = true := rfl
@[simp] theorem enterHandler_trace (k : DispatchKind) (h : HandlerId) (cmd : CmdId) (n : Byte) (p : List Byte) : (enterHandler k h cmd n p s).trace = s.trace ++ [.dispatch k h cmd n p] := rfl
@[simp] theorem enterHandler_refusals (k : DispatchKind) (h : HandlerId) (cmd : CmdId) (n : Byte) (p : List Byte) : (enterHandler k h cmd n p s).refusals = s.refusals := rfl
@[simp] theorem enterHandler_port (k : DispatchKind) (h : HandlerId) (cmd : CmdId) (n : Byte) (p : List Byte) : (enterHandler k h cmd n p s).port = s.port := rfl
@[simp] theorem enterHandler_result (k : DispatchKind) (h : HandlerId) (cmd : CmdId) (n : Byte) (p : List Byte) : (enterHandler k h cmd n p s).result = s.result := rfl
@[simp] theorem enterHandler_free (k : DispatchKind) (h : HandlerId) (cmd : CmdId) (n : Byte) (p : List Byte) : (enterHandler k h cmd n p s).free = s.free := rfl

/-! ### leaveHandler -/

@[simp] theorem leaveHandler_cfg : (leaveHandler s).cfg = s.cfg := rfl
@[simp] theorem leaveHandler_st : (leaveHandler s).st = s.st := rfl
@[simp] theorem leaveHandler_cmd : (leaveHandler s).cmd = s.cmd := rfl
@[simp] theorem leaveHandler_cmdIdx : (leaveHandler s).cmdIdx = s.cmdIdx := rfl
@[simp] theorem leaveHandler_len : (leaveHandler s).len = s.len := rfl
@[simp] theorem leaveHandler_cnt : (leaveHandler s).cnt = s.cnt := rfl
@[simp] theorem leaveHandler_rb : (leaveHandler s).rb = s.rb := rfl
@[simp] theorem leaveHandler_lastT : (leaveHandler s).lastT = s.lastT := rfl
@[simp] theorem leaveHandler_tooLarge : (leaveHandler s).tooLarge = s.tooLarge := rfl
@[simp] theorem leaveHandler_reg : (leaveHandler s).reg = s.reg := rfl
@[simp] theorem leaveHandler_inHandler : (leaveHandler s).inHandler = false := rfl
@[simp] theorem leaveHandler_trace : (leaveHandler s).trace = s.trace := rfl
@[simp] theorem leaveHandler_refusals : (leaveHandler s).refusals = s.refusals := rfl
@[simp] theorem leaveHandler_port : (leaveHandler s).port = s.port := rfl
@[simp] theorem leaveHandler_result : (leaveHandler s).result = s.result := rfl
@[simp] theorem leaveHandler_free : (leaveHandler s).free = s.free := rfl

/-! ### afterFetch -/

@[simp] theorem afterFetch_cfg (rest : List Byte) : (afterFetch rest s).cfg = s.cfg := rfl
@[simp] theorem afterFetch_st (rest : List Byte) : (afterFetch rest s).st = s.st := rfl
@[simp] theorem afterFetch_cmd (rest : List Byte) : (afterFetch rest s).cmd = s.cmd := rfl
@[simp] theorem afterFetch_cmdIdx (rest : List Byte) : (afterFetch rest s).cmdIdx = s.cmdIdx := rfl
@[simp] theorem afterFetch_len (rest : List Byte) : (afterFetch rest s).len = s.len := rfl
@[simp] theorem afterFetch_cnt (rest : List Byte) : (afterFetch rest s).cnt = s.cnt := rfl
@[simp] theorem afterFetch_rb (rest : List Byte) : (afterFetch rest s).rb = s.rb := rfl
@[simp] theorem afterFetch_lastT (rest : List Byte) : (afterFetch rest s).lastT = s.lastT := rfl
@[simp] theorem afterFetch_tooLarge (rest : List Byte) : (afterFetch rest s).tooLarge = s.tooLarge := rfl
@[simp] theorem afterFetch_reg (rest : List Byte) : (afterFetch rest s).reg = s.reg := rfl
@[simp] theorem afterFetch_inHandler (rest : List Byte) : (afterFetch rest s).inHandler = s.inHandler := rfl
@[simp] theorem afterFetch_trace (rest : List Byte) : (afterFetch rest s).trace = s.trace := rfl
@[simp] theorem afterFetch_refusals (rest : List Byte) : (afterFetch rest s).refusals = s.refusals := rfl
@[simp] theorem afterFetch_port (rest : List Byte) : (afterFetch rest s).port = rest := rfl
@[simp] theorem afterFetch_result (rest : List Byte) : (afterFetch rest s).result = none := rfl
@[simp] theorem afterFetch_free (rest : List Byte) : (afterFetch rest s).free = s.free := rfl

end Sys2Proof.Laws
end

