-- ==== Sys2Proof/Laws/Decoding.lean ====
section
/-! SUPPORT. The readers of Decode.lean undo the writers of the encoder, field by field, and what every reader's answer
satisfies; the state code and its reading are inverse. -/

namespace Sys2Proof.Laws

open Sys2Proof.Machine

/-! ### Fields -/

theorem takeLe_leBytes (k v : Nat) (rest : List Byte) :
    takeLe k (leBytes k v ++ rest) = .ok (v % 256 ^ k, rest) := by
  induction k generalizing v with
  | zero => simp [takeLe, leBytes, Nat.mod_one]
  | succ k ih =>
    simp only [leBytes, List.cons_append, takeLe, ih]
    have h : v % 256 ^ (k + 1) = v % 256 + 256 * (v / 256 % 256 ^ k) := by
      rw [pow_succ', Nat.mod_mul]
    simp [h]

/-- A value below `2 ^ bits` fits the bytes of a field of `bits` bits. -/
theorem lt_of_bytesFor {bits v : Nat} (h : v < 2 ^ bits) : v < 256 ^ bytesFor bits := by
  refine lt_of_lt_of_le h ?_
  rw [show (256 : Nat) = 2 ^ 8 by rfl, ← pow_mul]
  exact Nat.pow_le_pow_right (by norm_num) (by unfold bytesFor; omega)

theorem takeLe_field {bits v : Nat} (h : v < 2 ^ bits) (rest : List Byte) :
    takeLe (bytesFor bits) (leBytes (bytesFor bits) v ++ rest) = .ok (v, rest) := by
  rw [takeLe_leBytes, Nat.mod_eq_of_lt (lt_of_bytesFor h)]

/-- A number of any size is read back whole. -/
theorem takeNum_numGroups {k v : Nat} (h : v ≤ k) (rest : List Byte) :
    takeNum (numGroups k v ++ rest) = .ok (v, rest) := by
  induction k generalizing v with
  | zero =>
    obtain rfl : v = 0 := by omega
    rfl
  | succ k ih =>
    unfold numGroups
    by_cases hv : v < 128
    · have : (BitVec.ofNat 8 v).toNat = v := by
        simp
        omega
      rw [if_pos hv, List.singleton_append, takeNum, if_pos (by omega), this]
    · have hb : (BitVec.ofNat 8 (128 + v % 128)).toNat = 128 + v % 128 := by
        simp
        omega
      rw [if_neg hv, List.cons_append, takeNum, if_neg (by omega), ih (by omega)]
      simp only [hb, Except.ok.injEq, Prod.mk.injEq, and_true]
      omega

theorem takeNum_numBytes (v : Nat) (rest : List Byte) : takeNum (numBytes v ++ rest) = .ok (v, rest) :=
  takeNum_numGroups le_rfl rest

theorem takeBytes_append (p rest : List Byte) : takeBytes p.length (p ++ rest) = .ok (p, rest) := by
  simp [takeBytes]

theorem takeBytes_length {k : Nat} {bs p rest : List Byte} (h : takeBytes k bs = .ok (p, rest)) : p.length = k := by
  unfold takeBytes at h
  split at h
  · cases h
  · cases h
    simp
    omega

theorem takeCmdId_cmdbytes {w : CmdWidth} {id : CmdId} (h : id.fits w = true) (rest : List Byte) :
    takeCmdId w (cmdbytes w id ++ rest) = .ok (id, rest) := by
  obtain ⟨a, b⟩ := id
  cases w with
  | one =>
    have : b = 0#8 := by simpa [CmdId.fits] using h
    simp [takeCmdId, cmdbytes, this]
  | two => simp [takeCmdId, cmdbytes]

theorem takeCmdId_fits {w : CmdWidth} {bs rest : List Byte} {id : CmdId} (h : takeCmdId w bs = .ok (id, rest)) :
    id.fits w = true := by
  cases w with
  | two => rfl
  | one =>
    cases bs with
    | nil => simp [takeCmdId] at h
    | cons b bs =>
      simp only [takeCmdId, Except.ok.injEq, Prod.mk.injEq] at h
      simp [← h.1, CmdId.fits]

theorem decodePayload_payloadBytes (p rest : List Byte) :
    decodePayload (numBytes p.length ++ p ++ rest) = .ok (p, rest) := by
  rw [List.append_assoc, decodePayload, takeNum_numBytes]
  exact takeBytes_append p rest

/-! ### The state code -/

theorem ofCode_code (p : ParserState) : ParserState.ofCode p.code = p := by
  cases p with
  | notState k => revert k; decide
  | awaitingStart => rfl
  | awaitingCommand => rfl
  | awaitingLength => rfl
  | awaitingPayload => rfl
  | awaitingEnd => rfl

theorem code_ofCode (b : BitVec 3) : (ParserState.ofCode b).code = b := by
  revert b
  decide

theorem extract_append_high {v w : Nat} (a : BitVec v) (b : BitVec w) : (a ++ b).extractLsb' w v = a := by
  ext i hi
  simp [BitVec.getLsbD_append, BitVec.getLsbD_eq_getElem hi]

theorem extract_append_low {v w : Nat} (a : BitVec v) (b : BitVec w) : (a ++ b).extractLsb' 0 w = b := by
  ext i hi
  simp [BitVec.getLsbD_append, hi]

theorem keyOf_state (st : ParserState) (c : Byte) : (keyOf st c).extractLsb' 8 3 = st.code :=
  extract_append_high st.code c

theorem keyOf_byte (st : ParserState) (c : Byte) : (keyOf st c).extractLsb' 0 8 = c :=
  extract_append_low st.code c

/-! ### The byte table, state by state -/

/-- A row of one byte value is hit by that byte alone. -/
theorem hits_single (st : ParserState) (b c : Byte) (row : Byte → Instr) :
    KeyRow.hits ⟨st, b.toNat, b.toNat, row⟩ st c = decide (c = b) := by
  by_cases h : c = b
  · simp [KeyRow.hits, h]
  · have : ¬ (b.toNat ≤ c.toNat ∧ c.toNat ≤ b.toNat) := fun h' => h (BitVec.eq_of_toNat_eq (by omega))
    simp only [KeyRow.hits, beq_self_eq_true, Bool.true_and, ← Bool.decide_and, this, h, decide_false]

theorem hits_range (st : ParserState) (lo hi : Nat) (c : Byte) (row : Byte → Instr) :
    KeyRow.hits ⟨st, lo, hi, row⟩ st c = decide (lo ≤ c.toNat ∧ c.toNat ≤ hi) := by
  simp [KeyRow.hits]

theorem hits_any (st : ParserState) (c : Byte) (row : Byte → Instr) : KeyRow.hits ⟨st, 0, 255, row⟩ st c = true := by
  have := c.isLt
  rw [hits_range]
  simp
  omega

theorem hits_other {st st' : ParserState} (h : st' ≠ st) (lo hi : Nat) (c : Byte) (row : Byte → Instr) :
    KeyRow.hits ⟨st', lo, hi, row⟩ st c = false := by
  simp [KeyRow.hits, h]

theorem decodeKey_awaitingStart (cfg : Config) (c : Byte) :
    decodeKey cfg .awaitingStart c = some (if c = cfg.stx then .feedStart else .feedIgnore c) := by
  by_cases h : c = cfg.stx
  · simp [decodeKey, keyRows, hits_single, h]
  · simp [decodeKey, keyRows, List.find?, hits_single, hits_any, h]

theorem decodeKey_awaitingCommand (cfg : Config) (c : Byte) :
    decodeKey cfg .awaitingCommand c =
      some (match cfg.cmdWidth with | .one => .feedCmdByte c | .two => .feedCmdChar c) := by
  cases h : cfg.cmdWidth <;> simp [decodeKey, keyRows, List.find?, hits_other, hits_any, h]

theorem decodeKey_awaitingLength {cfg : Config} (hcap : 1 ≤ cfg.cap) (c : Byte) :
    decodeKey cfg .awaitingLength c =
      some (if c = 0#8 then .feedLenZero else if c.toNat = cfg.cap then .feedLenMax
            else if c.toNat < cfg.cap then .feedLenSmall c else .feedLenTooLarge c) := by
  have hc := c.isLt
  have h0 : c = 0#8 ↔ c.toNat = 0 := ⟨fun h => by simp [h], fun h => BitVec.eq_of_toNat_eq h⟩
  simp only [decodeKey, keyRows, List.find?, hits_range, hits_other (show ParserState.awaitingStart ≠ .awaitingLength by simp),
    hits_other (show ParserState.awaitingCommand ≠ .awaitingLength by simp), h0]
  by_cases h1 : c.toNat = 0
  · simp [h1]
  · by_cases h2 : c.toNat = cfg.cap
    · have : cfg.cap ≠ 0 := by omega
      simp [h2, this]
    · by_cases h3 : c.toNat < cfg.cap
      · have : ¬ (cfg.cap ≤ c.toNat ∧ c.toNat ≤ cfg.cap) := by omega
        have h4 : c.toNat ≤ cfg.cap - 1 := by omega
        simp [h1, h2, h3, this, h4]
      · have : ¬ (cfg.cap ≤ c.toNat ∧ c.toNat ≤ cfg.cap) := by omega
        have h4 : ¬ c.toNat ≤ cfg.cap - 1 := by omega
        have h5 : cfg.cap ≤ c.toNat ∧ c.toNat ≤ 255 := by omega
        have h6 : cfg.cap ≤ c.toNat := h5.1
        have h7 : c.toNat ≤ 255 := h5.2
        have h8 : ¬ c.toNat ≤ cfg.cap := by omega
        simp [h1, h2, h3, h4, h6, h7, h8]

theorem decodeKey_awaitingPayload (cfg : Config) (c : Byte) :
    decodeKey cfg .awaitingPayload c = some (.feedPayloadByte c) := by
  simp [decodeKey, keyRows, List.find?, hits_other, hits_any]

theorem decodeKey_awaitingEnd (cfg : Config) (c : Byte) :
    decodeKey cfg .awaitingEnd c =
      some (if c = cfg.etx then .feedEnd else if c = cfg.stx then .feedResync else .feedEndAbort c) := by
  by_cases h : c = cfg.etx
  · simp [decodeKey, keyRows, List.find?, hits_other, hits_single, h]
  · by_cases h' : c = cfg.stx
    · subst h'
      simp [decodeKey, keyRows, List.find?, hits_other, hits_single, h]
    · simp [decodeKey, keyRows, List.find?, hits_other, hits_single, hits_any, h, h']

theorem decodeKey_notState (cfg : Config) (k : Fin 3) (c : Byte) : decodeKey cfg (.notState k) c = none := by
  simp [decodeKey, keyRows, List.find?, hits_other]

/-- The second byte of a key's two bytes is its state's code. -/
theorem code_of_keyByte (st : ParserState) :
    ¬ 8 ≤ (st.code.setWidth 8).toNat ∧ BitVec.ofNat 3 (st.code.setWidth 8).toNat = st.code := by
  cases st with
  | notState k => revert k; decide
  | awaitingStart => decide
  | awaitingCommand => decide
  | awaitingLength => decide
  | awaitingPayload => decide
  | awaitingEnd => decide

/-- The two key bytes decode to the row of their state and byte. -/
theorem decodeKeyBytes_keyBytes {cfg : Config} {st : ParserState} {c : Byte} {i : Instr} (h : decodeKey cfg st c = some i)
    (rest : List Byte) : decodeKeyBytes cfg (keyBytes st c ++ rest) = .ok (i, rest) := by
  obtain ⟨h₁, h₂⟩ := code_of_keyByte st
  simp only [decodeKeyBytes, keyBytes, List.cons_append, List.nil_append, if_neg h₁, h₂, ofCode_code, h]

end Sys2Proof.Laws
end

