-- ==== Sys2Proof/Laws/Tables.lean ====
section
/-! SUPPORT. The laws of tables, of the receive buffer and of the registry: a read after a write, what a write leaves alone,
and that every operation keeps the canonical form. -/

namespace Sys2Proof.Laws

open Sys2Proof.Machine

variable {α : Type}

/-! ### Lookup -/

theorem lookup_insert_same (t : List (Nat × α)) (k : Nat) (v : α) :
    Table.lookup (Table.insert k v t) k = some v := by
  induction t with
  | nil => simp [Table.insert, Table.lookup]
  | cons e t ih =>
    obtain ⟨k', v'⟩ := e
    by_cases h : k < k'
    · simp [Table.insert, Table.lookup, h]
    · by_cases h' : k = k'
      · simp [Table.insert, Table.lookup, h']
      · simp [Table.insert, Table.lookup, h, h', Ne.symm h', ih]

theorem lookup_insert_other (t : List (Nat × α)) {k a : Nat} (v : α) (hne : a ≠ k) :
    Table.lookup (Table.insert k v t) a = Table.lookup t a := by
  induction t with
  | nil => simp [Table.insert, Table.lookup, Ne.symm hne]
  | cons e t ih =>
    obtain ⟨k', v'⟩ := e
    by_cases h : k < k'
    · simp [Table.insert, Table.lookup, h, Ne.symm hne]
    · by_cases h' : k = k'
      · subst h'
        simp [Table.insert, Table.lookup, Ne.symm hne]
      · simp [Table.insert, Table.lookup, h, h', ih]

theorem lookup_erase_same (t : List (Nat × α)) (k : Nat) : Table.lookup (Table.erase k t) k = none := by
  induction t with
  | nil => rfl
  | cons e t ih =>
    obtain ⟨k', v'⟩ := e
    by_cases h : k' = k <;> simp [Table.erase, Table.lookup, h, ih]

theorem lookup_erase_other (t : List (Nat × α)) {k a : Nat} (hne : a ≠ k) :
    Table.lookup (Table.erase k t) a = Table.lookup t a := by
  induction t with
  | nil => rfl
  | cons e t ih =>
    obtain ⟨k', v'⟩ := e
    by_cases h : k' = k
    · subst h
      simp [Table.erase, Table.lookup, Ne.symm hne, ih]
    · simp [Table.erase, Table.lookup, h, ih]

/-! ### Membership -/

theorem mem_of_lookup {t : List (Nat × α)} {k : Nat} {v : α} (h : Table.lookup t k = some v) : (k, v) ∈ t := by
  induction t with
  | nil => cases h
  | cons e t ih =>
    simp only [Table.lookup] at h
    split at h
    · rename_i hk
      cases h
      simp [← hk]
    · exact List.mem_cons_of_mem _ (ih h)

theorem mem_insert {t : List (Nat × α)} {k : Nat} {v : α} {e : Nat × α} (h : e ∈ Table.insert k v t) :
    e = (k, v) ∨ e ∈ t := by
  induction t with
  | nil => simpa [Table.insert] using h
  | cons e' t ih =>
    obtain ⟨k', v'⟩ := e'
    simp only [Table.insert] at h
    split at h
    · simpa using h
    · split at h
      · rcases List.mem_cons.1 h with h | h
        · exact .inl h
        · exact .inr (List.mem_cons_of_mem _ h)
      · rcases List.mem_cons.1 h with h | h
        · exact .inr (h ▸ List.mem_cons_self)
        · exact (ih h).imp_right (List.mem_cons_of_mem _)

theorem mem_erase {t : List (Nat × α)} {k : Nat} {e : Nat × α} (h : e ∈ Table.erase k t) : e ∈ t := by
  induction t with
  | nil => simp [Table.erase] at h
  | cons e' t ih =>
    obtain ⟨k', v'⟩ := e'
    simp only [Table.erase] at h
    split at h
    · exact List.mem_cons_of_mem _ (ih h)
    · rcases List.mem_cons.1 h with h | h
      · exact h ▸ List.mem_cons_self
      · exact List.mem_cons_of_mem _ (ih h)

/-! ### Rising keys -/

/-- `Table.rising` as the order of all pairs of entries. -/
theorem rising_iff_pairwise (t : List (Nat × α)) :
    Table.rising t = true ↔ t.Pairwise (fun e e' => e.1 < e'.1) := by
  induction t with
  | nil => simp [Table.rising]
  | cons e t ih =>
    cases t with
    | nil => simp [Table.rising]
    | cons e' t =>
      simp only [Table.rising, Bool.and_eq_true, decide_eq_true_eq]
      constructor
      · rintro ⟨h, h'⟩
        have hp := ih.1 h'
        refine List.pairwise_cons.2 ⟨fun x hx => ?_, hp⟩
        rcases List.mem_cons.1 hx with hx | hx
        · exact hx ▸ h
        · exact lt_trans h ((List.pairwise_cons.1 hp).1 x hx)
      · intro h
        obtain ⟨h₁, h₂⟩ := List.pairwise_cons.1 h
        exact ⟨h₁ e' List.mem_cons_self, ih.2 h₂⟩

theorem rising_insert (t : List (Nat × α)) (k : Nat) (v : α) (h : Table.rising t = true) :
    Table.rising (Table.insert k v t) = true := by
  rw [rising_iff_pairwise] at h ⊢
  induction t with
  | nil => simp [Table.insert]
  | cons e t ih =>
    obtain ⟨k', v'⟩ := e
    obtain ⟨h₁, h₂⟩ := List.pairwise_cons.1 h
    simp only [Table.insert]
    split
    · rename_i hlt
      refine List.pairwise_cons.2 ⟨fun x hx => ?_, h⟩
      rcases List.mem_cons.1 hx with hx | hx
      · exact hx ▸ hlt
      · exact lt_trans hlt (h₁ x hx)
    · split
      · rename_i heq
        exact List.pairwise_cons.2 ⟨fun x hx => heq ▸ h₁ x hx, h₂⟩
      · refine List.pairwise_cons.2 ⟨fun x hx => ?_, ih h₂⟩
        rcases mem_insert hx with hx | hx
        · subst hx
          show k' < k
          omega
        · exact h₁ x hx

theorem rising_erase (t : List (Nat × α)) (k : Nat) (h : Table.rising t = true) :
    Table.rising (Table.erase k t) = true := by
  rw [rising_iff_pairwise] at h ⊢
  induction t with
  | nil => simp [Table.erase]
  | cons e t ih =>
    obtain ⟨k', v'⟩ := e
    obtain ⟨h₁, h₂⟩ := List.pairwise_cons.1 h
    simp only [Table.erase]
    split
    · exact ih h₂
    · exact List.pairwise_cons.2 ⟨fun x hx => h₁ x (mem_erase hx), ih h₂⟩

/-! ### The receive buffer -/

theorem read_write_same (m : List Host.Cell) (a : Nat) (v : Byte) : Memory.read (Memory.write m a v) a = v := by
  unfold Memory.write
  split
  · rename_i hv
    simp [Memory.read, lookup_erase_same, hv]
  · simp [Memory.read, lookup_insert_same]

theorem read_write_other (m : List Host.Cell) {a b : Nat} (v : Byte) (hne : b ≠ a) :
    Memory.read (Memory.write m a v) b = Memory.read m b := by
  unfold Memory.write
  split
  · simp [Memory.read, lookup_erase_other m hne]
  · simp [Memory.read, lookup_insert_other m v hne]

theorem wf_write (m : List Host.Cell) (a : Nat) (v : Byte) (h : Memory.wf m = true) :
    Memory.wf (Memory.write m a v) = true := by
  simp only [Memory.wf, Bool.and_eq_true, List.all_eq_true, bne_iff_ne, ne_eq] at h ⊢
  unfold Memory.write
  split
  · exact ⟨rising_erase _ _ h.1, fun c hc => h.2 c (mem_erase hc)⟩
  · rename_i hv
    refine ⟨rising_insert _ _ _ h.1, fun c hc => ?_⟩
    rcases mem_insert hc with hc | hc
    · exact hc ▸ hv
    · exact h.2 c hc

theorem index_write {m : List Host.Cell} {a n : Nat} {v : Byte} (hm : ∀ c ∈ m, c.1 < n) (ha : a < n) :
    ∀ c ∈ Memory.write m a v, c.1 < n := by
  intro c hc
  unfold Memory.write at hc
  split at hc
  · exact hm c (mem_erase hc)
  · rcases mem_insert hc with hc | hc
    · exact hc ▸ ha
    · exact hm c hc

theorem mem_ofFn {f : Nat → Byte} {a n : Nat} {c : Host.Cell} (h : c ∈ Memory.ofFn f a n) :
    a ≤ c.1 ∧ c.1 < a + n ∧ c.2 ≠ Memory.unlisted := by
  induction n generalizing a with
  | zero => simp [Memory.ofFn] at h
  | succ n ih =>
    simp only [Memory.ofFn] at h
    split at h
    · obtain ⟨h₁, h₂, h₃⟩ := ih h
      exact ⟨by omega, by omega, h₃⟩
    · rename_i hv
      rcases List.mem_cons.1 h with h | h
      · subst h
        exact ⟨le_refl _, by simp, hv⟩
      · obtain ⟨h₁, h₂, h₃⟩ := ih h
        exact ⟨by omega, by omega, h₃⟩

theorem wf_ofFn (f : Nat → Byte) (a n : Nat) : Memory.wf (Memory.ofFn f a n) = true := by
  simp only [Memory.wf, Bool.and_eq_true, List.all_eq_true, bne_iff_ne, ne_eq]
  refine ⟨?_, fun c hc => (mem_ofFn hc).2.2⟩
  rw [rising_iff_pairwise]
  induction n generalizing a with
  | zero => simp [Memory.ofFn]
  | succ n ih =>
    simp only [Memory.ofFn]
    split
    · exact ih _
    · exact List.pairwise_cons.2 ⟨fun c hc => (mem_ofFn hc).1, ih _⟩

theorem read_ofFn (f : Nat → Byte) (a n b : Nat) :
    Memory.read (Memory.ofFn f a n) b = if a ≤ b ∧ b < a + n then f b else Memory.unlisted := by
  induction n generalizing a with
  | zero => simp [Memory.ofFn, Memory.read, Table.lookup]
  | succ n ih =>
    simp only [Memory.ofFn]
    split
    · rename_i hv
      rw [ih]
      by_cases hb : b = a
      · subst hb
        simp [hv]
      · by_cases h : a ≤ b ∧ b < a + (n + 1)
        · rw [if_pos h, if_pos (by omega)]
        · rw [if_neg h, if_neg (by omega)]
    · by_cases hb : b = a
      · subst hb
        simp [Memory.read, Table.lookup]
      · have : Memory.read ((a, f a) :: Memory.ofFn f (a + 1) n) b = Memory.read (Memory.ofFn f (a + 1) n) b := by
          simp [Memory.read, Table.lookup, Ne.symm hb]
        rw [this, ih]
        by_cases h : a ≤ b ∧ b < a + (n + 1)
        · rw [if_pos h, if_pos (by omega)]
        · rw [if_neg h, if_neg (by omega)]

/-! ### The registry -/

theorem regKey_injective {id id' : CmdId} (h : regKey id = regKey id') : id = id' := by
  obtain ⟨a, b⟩ := id
  obtain ⟨a', b'⟩ := id'
  simp only [regKey] at h
  have h₁ := a.isLt
  have h₂ := b.isLt
  have h₃ := a'.isLt
  have h₄ := b'.isLt
  have ha : a = a' := BitVec.eq_of_toNat_eq (by omega)
  have hb : b = b' := BitVec.eq_of_toNat_eq (by omega)
  rw [ha, hb]

theorem regLookup_regWrite_same (s : State) (id : CmdId) (h : HandlerId) :
    regLookup (regWrite id h s) id = some h :=
  lookup_insert_same _ _ _

theorem regLookup_regWrite_other (s : State) {id id' : CmdId} (h : HandlerId) (hne : id' ≠ id) :
    regLookup (regWrite id h s) id' = regLookup s id' :=
  lookup_insert_other _ _ fun hk => hne (regKey_injective hk)

/-! ### At reset -/

theorem reset_memory_wf (cfg : Config) : Memory.wf (State.resetWith cfg).rb = true := rfl

end Sys2Proof.Laws
end

