-- ==== Sys2Proof/Laws/Operations.lean ====
section
/-! SUPPORT. One lemma per shared operation that says everything it can do; proofs about instructions cite these and unfold no
operation again. -/

namespace Sys2Proof.Laws

open Sys2Proof.Machine

/-! ### Sequencing -/

@[simp] theorem andThen_next (s : State) (f : State → Result) : andThen (.next s) f = f s := rfl
@[simp] theorem andThen_fault (e : Fault) (f : State → Result) : andThen (.fault e) f = .fault e := rfl
@[simp] theorem andThen_refused (e : Refusal) (f : State → Result) : andThen (.refused e) f = .refused e := rfl

theorem andThen_eq_next {r : Result} {f : State → Result} {t : State} (h : andThen r f = .next t) :
    ∃ s, r = .next s ∧ f s = .next t := by
  cases r with
  | next s => exact ⟨s, rfl, h⟩
  | fault e => cases h
  | refused e => cases h

/-! ### The receive buffer -/

theorem memWrite_of_lt {a : Nat} {s : State} (v : Byte) (h : a < s.cfg.cap) :
    memWrite a v s = .next { s with rb := Memory.write s.rb a v } := if_pos h

theorem memWrite_cases {a : Nat} {v : Byte} {s t : State} (h : memWrite a v s = .next t) :
    a < s.cfg.cap ∧ t = { s with rb := Memory.write s.rb a v } := by
  unfold memWrite at h
  split at h
  · rename_i ha
    cases h
    exact ⟨ha, rfl⟩
  · cases h

theorem memRead_of_le {a n : Nat} {s : State} (h : a + n ≤ s.cfg.cap) : memRead a n s = .ok (rbBytes s a n) := if_pos h

theorem memRead_of_gt {a n : Nat} {s : State} (h : s.cfg.cap < a + n) :
    memRead a n s = .error (.bufferIndex (a + n)) := if_neg (by omega)

@[simp] theorem length_rbBytes (s : State) (a n : Nat) : (rbBytes s a n).length = n := by
  simp [rbBytes]

theorem rbBytes_congr {s s' : State} {a n : Nat} (h : ∀ k, k < n → rbByte s (a + k) = rbByte s' (a + k)) :
    rbBytes s a n = rbBytes s' a n :=
  List.map_congr_left fun k hk => h k (List.mem_range.1 hk)

theorem rbBytes_succ (s : State) (a n : Nat) : rbBytes s a (n + 1) = rbBytes s a n ++ [rbByte s (a + n)] := by
  simp [rbBytes, List.range_succ]

/-! ### The staleness reset -/

theorem staleReset_of_not_stale {now : Nat} {s : State} (h : isStale now s = false) : staleReset now s = s := by
  simp [staleReset, h]

theorem staleReset_of_stale {now : Nat} {s : State} (h : isStale now s = true) :
    staleReset now s = setSt .awaitingStart (clearFrame s) := by
  simp [staleReset, h]

theorem not_stale_of_awaitingStart {s : State} (now : Nat) (h : s.st = .awaitingStart) : isStale now s = false := by
  simp [isStale, h]

/-! ### DISPATCH -/

/-- Everything a DISPATCH can do when it goes on (41_dispatch.md R84). -/
theorem execDispatch_cases {cmd : CmdId} {n : Byte} {s t : State} (h : execDispatch cmd n s = .next t) :
    n.toNat ≤ s.cfg.cap ∧
      ((∃ f, regLookup s cmd = some f ∧ t = enterHandler .exact f cmd n (rbBytes s 0 n.toNat) s) ∨
       (∃ f, regLookup s cmd = none ∧ regLookup s s.cfg.invalidCmd = some f
          ∧ t = enterHandler .fallback f cmd n (rbBytes s 0 n.toNat) s) ∨
       (regLookup s cmd = none ∧ regLookup s s.cfg.invalidCmd = none ∧ t = s)) := by
  unfold execDispatch at h
  by_cases hn : 0 + n.toNat ≤ s.cfg.cap
  · rw [memRead_of_le hn] at h
    refine ⟨by omega, ?_⟩
    cases hc : regLookup s cmd with
    | some f =>
      simp only [hc] at h
      cases h
      exact .inl ⟨f, rfl, rfl⟩
    | none =>
      cases hi : regLookup s s.cfg.invalidCmd with
      | some f =>
        simp only [hc, hi] at h
        cases h
        exact .inr (.inl ⟨f, rfl, rfl, rfl⟩)
      | none =>
        simp only [hc, hi] at h
        cases h
        exact .inr (.inr ⟨rfl, rfl, rfl⟩)
  · rw [memRead_of_gt (by omega)] at h
    cases h

/-- A DISPATCH goes on exactly when the length fits the buffer (41_dispatch.md R84). -/
theorem execDispatch_of_le {cmd : CmdId} {n : Byte} {s : State} (h : n.toNat ≤ s.cfg.cap) :
    execDispatch cmd n s =
      match regLookup s cmd with
      | some f => .next (enterHandler .exact f cmd n (rbBytes s 0 n.toNat) s)
      | none =>
        match regLookup s s.cfg.invalidCmd with
        | some f => .next (enterHandler .fallback f cmd n (rbBytes s 0 n.toNat) s)
        | none => .next s := by
  have hr := memRead_of_le (s := s) (show 0 + n.toNat ≤ s.cfg.cap by omega)
  cases hc : regLookup s cmd with
  | some f => simp only [execDispatch, hr, hc]
  | none => cases hi : regLookup s s.cfg.invalidCmd <;> simp only [execDispatch, hr, hc, hi]

/-! ### The payload byte and the end of a frame -/

/-- Everything PAYLOAD_BYTE can do when it goes on (40_parser.md R76). -/
theorem execFeedPayloadByte_cases {c : Byte} {s t : State} (h : execFeedPayloadByte c s = .next t) :
    s.cnt.toNat < s.cfg.cap ∧
      t = { s with rb := Memory.write s.rb s.cnt.toNat c, cnt := s.cnt + 1#8,
                   st := if s.cnt + 1#8 = s.len then .awaitingEnd else s.st } := by
  obtain ⟨u, hu, ht⟩ := andThen_eq_next h
  obtain ⟨hlt, rfl⟩ := memWrite_cases hu
  refine ⟨hlt, ?_⟩
  cases ht
  unfold endPayloadIfFull
  split <;> rename_i hc <;> simp_all [setCnt, setSt]

theorem execFeedPayloadByte_of_lt {c : Byte} {s : State} (h : s.cnt.toNat < s.cfg.cap) :
    execFeedPayloadByte c s =
      .next { s with rb := Memory.write s.rb s.cnt.toNat c, cnt := s.cnt + 1#8,
                     st := if s.cnt + 1#8 = s.len then .awaitingEnd else s.st } := by
  unfold execFeedPayloadByte
  rw [memWrite_of_lt c h, andThen_next]
  unfold endPayloadIfFull
  split <;> rename_i hc <;> simp_all [setCnt, setSt]

/-! ### FEED -/

theorem execFeed_in_handler {s : State} (c : Byte) (now : Nat) (h : s.inHandler = true) :
    execFeed c now s = .next (refuse .feedDuringHandler s) := by
  simp [execFeed, h]

theorem execFeed_admitted {s : State} (c : Byte) (now : Nat) (h : s.inHandler = false) :
    execFeed c now s = parseByte c (stamp now (staleReset now s)) := by
  simp [execFeed, h]

theorem execFeed_in_time {s : State} {c : Byte} {now : Nat} (h : s.takesByteInTime now) :
    execFeed c now s = parseByte c (stamp now s) := by
  rw [execFeed_admitted c now h.1, staleReset_of_not_stale h.2]

/-! ### The byte rule of each state (40_parser.md R80) -/

theorem parseByte_awaitingStart {s : State} (c : Byte) (h : s.st = .awaitingStart) :
    parseByte c s = if c = s.cfg.stx then execFeedStart s else execFeedIgnore c s := by
  unfold parseByte
  rw [h]

theorem parseByte_awaitingCommand {s : State} (c : Byte) (h : s.st = .awaitingCommand) :
    parseByte c s = match s.cfg.cmdWidth with | .one => execFeedCmdByte c s | .two => execFeedCmdChar c s := by
  cases hw : s.cfg.cmdWidth <;> simp only [parseByte, h, hw]

theorem parseByte_awaitingLength {s : State} (c : Byte) (h : s.st = .awaitingLength) :
    parseByte c s =
      if c = 0#8 then execFeedLenZero s
      else if c.toNat = s.cfg.cap then execFeedLenMax s
      else if c.toNat < s.cfg.cap then execFeedLenSmall c s
      else execFeedLenTooLarge c s := by
  unfold parseByte
  rw [h]

theorem parseByte_awaitingPayload {s : State} (c : Byte) (h : s.st = .awaitingPayload) :
    parseByte c s = execFeedPayloadByte c s := by
  unfold parseByte
  rw [h]

theorem parseByte_awaitingEnd {s : State} (c : Byte) (h : s.st = .awaitingEnd) :
    parseByte c s =
      if c = s.cfg.etx then execFeedEnd s
      else if c = s.cfg.stx then execFeedResync s
      else execFeedEndAbort c s := by
  unfold parseByte
  rw [h]

theorem parseByte_notState {s : State} (c : Byte) {k : Fin 3} (h : s.st = .notState k) :
    parseByte c s = .fault .badState := by
  unfold parseByte
  rw [h]

/-- The state after the staleness check: the same state, or the frame discarded (40_parser.md R69). -/
theorem staleReset_cases (now : Nat) (s : State) :
    (isStale now s = false ∧ staleReset now s = s) ∨
    (isStale now s = true ∧ staleReset now s = setSt .awaitingStart (clearFrame s)) := by
  cases h : isStale now s
  · exact .inl ⟨rfl, staleReset_of_not_stale h⟩
  · exact .inr ⟨rfl, staleReset_of_stale h⟩

/-! ### FEED in time, state by state -/

theorem execFeed_awaitingStart {s : State} {now : Nat} (c : Byte) (h : s.inHandler = false) (hs : s.st = .awaitingStart) :
    execFeed c now s = if c = s.cfg.stx then execFeedStart (stamp now s) else execFeedIgnore c (stamp now s) :=
  (execFeed_in_time ⟨h, not_stale_of_awaitingStart now hs⟩).trans (parseByte_awaitingStart (s := stamp now s) c hs)

theorem execFeed_awaitingCommand {s : State} {now : Nat} (c : Byte) (h : s.takesByteInTime now)
    (hs : s.st = .awaitingCommand) :
    execFeed c now s =
      match s.cfg.cmdWidth with | .one => execFeedCmdByte c (stamp now s) | .two => execFeedCmdChar c (stamp now s) :=
  (execFeed_in_time h).trans (parseByte_awaitingCommand (s := stamp now s) c hs)

theorem execFeed_awaitingLength {s : State} {now : Nat} (c : Byte) (h : s.takesByteInTime now)
    (hs : s.st = .awaitingLength) :
    execFeed c now s =
      if c = 0#8 then execFeedLenZero (stamp now s)
      else if c.toNat = s.cfg.cap then execFeedLenMax (stamp now s)
      else if c.toNat < s.cfg.cap then execFeedLenSmall c (stamp now s)
      else execFeedLenTooLarge c (stamp now s) :=
  (execFeed_in_time h).trans (parseByte_awaitingLength (s := stamp now s) c hs)

theorem execFeed_awaitingPayload {s : State} {now : Nat} (c : Byte) (h : s.takesByteInTime now)
    (hs : s.st = .awaitingPayload) : execFeed c now s = execFeedPayloadByte c (stamp now s) :=
  (execFeed_in_time h).trans (parseByte_awaitingPayload (s := stamp now s) c hs)

theorem execFeed_awaitingEnd {s : State} {now : Nat} (c : Byte) (h : s.takesByteInTime now) (hs : s.st = .awaitingEnd) :
    execFeed c now s =
      if c = s.cfg.etx then execFeedEnd (stamp now s)
      else if c = s.cfg.stx then execFeedResync (stamp now s)
      else execFeedEndAbort c (stamp now s) :=
  (execFeed_in_time h).trans (parseByte_awaitingEnd (s := stamp now s) c hs)

theorem execFeed_stale {s : State} {now : Nat} (c : Byte) (h : s.inHandler = false) (hs : isStale now s = true) :
    execFeed c now s =
      if c = s.cfg.stx then execFeedStart (stamp now (setSt .awaitingStart (clearFrame s)))
      else execFeedIgnore c (stamp now (setSt .awaitingStart (clearFrame s))) := by
  rw [execFeed_admitted c now h, staleReset_of_stale hs]
  exact parseByte_awaitingStart (s := stamp now (setSt .awaitingStart (clearFrame s))) c rfl

end Sys2Proof.Laws
end

