-- ==== Sys2Proof/Laws/Moves.lean ====
section
/-! SUPPORT. What each operation can do, said once: every move of the parser on one byte, of FEED, and of the host's other
operations. Proofs about all operations go by cases on these. -/

namespace Sys2Proof.Laws

open Sys2Proof.Machine

/-- The constraints of 00_scope.md R9, R10 on a well-formed configuration. -/
theorem config_wf {cfg : Config} (h : cfg.wf = true) :
    cfg.stx ≠ cfg.etx ∧ 1 ≤ cfg.cap ∧ cfg.cap ≤ 255 ∧ cfg.maxPayload ≤ 255 ∧ cfg.noCmd ≠ cfg.invalidCmd
      ∧ 1 ≤ cfg.clockWidth ∧ 8 ≤ cfg.txLenWidth ∧ cfg.noCmd.fits cfg.cmdWidth = true
      ∧ cfg.invalidCmd.fits cfg.cmdWidth = true := by
  simp only [Config.wf, Bool.and_eq_true, decide_eq_true_eq, bne_iff_ne, ne_eq] at h
  tauto

theorem toNat_capByte {cfg : Config} (h : cfg.cap ≤ 255) : (capByte cfg).toNat = cfg.cap := by
  simp [capByte]
  omega

/-- Folding a folded byte changes nothing (30_encoding.md R58). -/
theorem fold_fold (cf : CaseFold) (c : Byte) : fold cf (fold cf c) = fold cf c := by
  revert c
  cases cf <;> decide

/-- What DISPATCH leaves alone: everything but the trace and `in_handler` (41_dispatch.md R84, R88). -/
theorem execDispatch_leaves {cmd : CmdId} {n : Byte} {s t : State} (h : execDispatch cmd n s = .next t) :
    t = { s with trace := t.trace, inHandler := t.inHandler } := by
  obtain ⟨-, ⟨f, -, rfl⟩ | ⟨f, -, -, rfl⟩ | ⟨-, -, rfl⟩⟩ := execDispatch_cases h <;> rfl

/-- The moves of the parser on the byte `c` (40_parser.md R71 to R79). -/
inductive ParserMove (c : Byte) (s : State) : State → Prop
  | start (hs : s.st = .awaitingStart) (hc : c = s.cfg.stx) : ParserMove c s (setSt .awaitingCommand (clearFrame s))
  | ignore (hs : s.st = .awaitingStart) (hc : c ≠ s.cfg.stx) : ParserMove c s s
  | cmdByte (hs : s.st = .awaitingCommand) (hw : s.cfg.cmdWidth = .one) :
      ParserMove c s (setSt .awaitingLength (setCmd ⟨c, 0#8⟩ s))
  | cmdFirst (hs : s.st = .awaitingCommand) (hw : s.cfg.cmdWidth = .two) (hi : s.cmdIdx = 0#1) :
      ParserMove c s (setCmdFirst (fold s.cfg.caseFold c) s)
  | cmdSecond (hs : s.st = .awaitingCommand) (hw : s.cfg.cmdWidth = .two) (hi : s.cmdIdx = 1#1) :
      ParserMove c s (setSt .awaitingLength (setCmdSecond (fold s.cfg.caseFold c) s))
  | lenZero (hs : s.st = .awaitingLength) (hc : c = 0#8) : ParserMove c s (setSt .awaitingEnd (setLen 0#8 s))
  | lenStored (hs : s.st = .awaitingLength) (hc : c ≠ 0#8) (hl : c.toNat ≤ s.cfg.cap) :
      ParserMove c s (setSt .awaitingPayload (setLen c s))
  | lenClamped (hs : s.st = .awaitingLength) (hl : s.cfg.cap < c.toNat) (hp : s.cfg.lenPolicy = .clamp) :
      ParserMove c s (setSt .awaitingPayload (setLen (capByte s.cfg) (emit (.tooLarge c) (setTooLarge s))))
  | lenRejected (hs : s.st = .awaitingLength) (hl : s.cfg.cap < c.toNat) (hp : s.cfg.lenPolicy = .reject) :
      ParserMove c s (setSt .awaitingStart (clearFrame (emit (.tooLarge c) (setTooLarge s))))
  | payload (hs : s.st = .awaitingPayload) (hl : s.cnt.toNat < s.cfg.cap) :
      ParserMove c s { s with rb := Memory.write s.rb s.cnt.toNat c, cnt := s.cnt + 1#8,
                              st := if s.cnt + 1#8 = s.len then .awaitingEnd else .awaitingPayload }
  | etx (hs : s.st = .awaitingEnd) (hc : c = s.cfg.etx) (u : State) (hu : execDispatch s.cmd s.len s = .next u) :
      ParserMove c s (setSt .awaitingStart (clearFrame u))
  | resync (hs : s.st = .awaitingEnd) (he : c ≠ s.cfg.etx) (hc : c = s.cfg.stx) :
      ParserMove c s (setSt .awaitingCommand (clearFrame s))
  | abort (hs : s.st = .awaitingEnd) (he : c ≠ s.cfg.etx) (hc : c ≠ s.cfg.stx) :
      ParserMove c s (setSt .awaitingStart (clearFrame s))

/-- Everything the byte rules can do (40_parser.md R80). -/
theorem parseByte_move {c : Byte} {s t : State} (h : parseByte c s = .next t) : ParserMove c s t := by
  cases hs : s.st with
  | awaitingStart =>
    rw [parseByte_awaitingStart c hs] at h
    split at h <;> rename_i hc <;> cases h
    · exact .start hs hc
    · exact .ignore hs hc
  | awaitingCommand =>
    rw [parseByte_awaitingCommand c hs] at h
    cases hw : s.cfg.cmdWidth with
    | one =>
      rw [hw] at h
      cases h
      exact .cmdByte hs hw
    | two =>
      simp only [hw, execFeedCmdChar] at h
      split at h <;> rename_i hi <;> cases h
      · exact .cmdFirst hs hw hi
      · exact .cmdSecond hs hw ((BitVec.eq_zero_or_eq_one s.cmdIdx).resolve_left hi)
  | awaitingLength =>
    rw [parseByte_awaitingLength c hs] at h
    by_cases h0 : c = 0#8
    · rw [if_pos h0] at h
      cases h
      exact .lenZero hs h0
    · rw [if_neg h0] at h
      by_cases h1 : c.toNat = s.cfg.cap
      · rw [if_pos h1] at h
        cases h
        have : capByte s.cfg = c := by simp [capByte, ← h1]
        rw [this]
        exact .lenStored hs h0 (by omega)
      · rw [if_neg h1] at h
        by_cases h2 : c.toNat < s.cfg.cap
        · rw [if_pos h2] at h
          cases h
          exact .lenStored hs h0 (by omega)
        · rw [if_neg h2] at h
          cases hp : s.cfg.lenPolicy <;> simp only [execFeedLenTooLarge, hp] at h <;> cases h
          · exact .lenClamped hs (by omega) hp
          · exact .lenRejected hs (by omega) hp
  | awaitingPayload =>
    rw [parseByte_awaitingPayload c hs] at h
    obtain ⟨hl, rfl⟩ := execFeedPayloadByte_cases h
    rw [hs]
    exact .payload hs hl
  | awaitingEnd =>
    rw [parseByte_awaitingEnd c hs] at h
    split at h
    · rename_i hc
      obtain ⟨u, hu, ht⟩ := andThen_eq_next h
      cases ht
      exact .etx hs hc u hu
    · rename_i he
      split at h <;> rename_i hc <;> cases h
      · exact .resync hs he hc
      · exact .abort hs he hc
  | notState k =>
    rw [parseByte_notState c hs] at h
    cases h

/-- Every move is made: the moves are what the byte rules do, no more and no less. -/
theorem parseByte_of_move {c : Byte} {s t : State} (h : ParserMove c s t) : parseByte c s = .next t := by
  cases h with
  | start hs hc => rw [parseByte_awaitingStart c hs, if_pos hc]; rfl
  | ignore hs hc => rw [parseByte_awaitingStart c hs, if_neg hc]; rfl
  | cmdByte hs hw => rw [parseByte_awaitingCommand c hs, hw]; rfl
  | cmdFirst hs hw hi => simp only [parseByte_awaitingCommand c hs, hw, execFeedCmdChar, hi, if_true]
  | cmdSecond hs hw hi =>
    have : ¬ (1#1 = 0#1) := by decide
    simp only [parseByte_awaitingCommand c hs, hw, execFeedCmdChar, hi, if_neg this]
  | lenZero hs hc => rw [parseByte_awaitingLength c hs, if_pos hc]; rfl
  | lenStored hs hc hl =>
    rw [parseByte_awaitingLength c hs, if_neg hc]
    by_cases h1 : c.toNat = s.cfg.cap
    · have : capByte s.cfg = c := by simp [capByte, ← h1]
      rw [if_pos h1, execFeedLenMax, this]
    · rw [if_neg h1, if_pos (by omega)]
      rfl
  | lenClamped hs hl hp =>
    have hc : c ≠ 0#8 := fun h => by simp [h] at hl
    rw [parseByte_awaitingLength c hs, if_neg hc, if_neg (by omega), if_neg (by omega), execFeedLenTooLarge, hp]
  | lenRejected hs hl hp =>
    have hc : c ≠ 0#8 := fun h => by simp [h] at hl
    rw [parseByte_awaitingLength c hs, if_neg hc, if_neg (by omega), if_neg (by omega), execFeedLenTooLarge, hp]
  | payload hs hl => rw [parseByte_awaitingPayload c hs, execFeedPayloadByte_of_lt hl, hs]
  | etx hs hc u hu => rw [parseByte_awaitingEnd c hs, if_pos hc, execFeedEnd, hu]; rfl
  | resync hs he hc => rw [parseByte_awaitingEnd c hs, if_neg he, if_pos hc]; rfl
  | abort hs he hc => rw [parseByte_awaitingEnd c hs, if_neg he, if_neg hc]; rfl

/-- Everything a FEED can do: it is refused, or the byte is parsed after the staleness check and the timestamp. -/
theorem execFeed_cases {c : Byte} {now : Nat} {s t : State} (h : execFeed c now s = .next t) :
    (s.inHandler = true ∧ t = refuse .feedDuringHandler s) ∨
    (s.inHandler = false ∧ isStale now s = false ∧ ParserMove c (stamp now s) t) ∨
    (s.inHandler = false ∧ isStale now s = true ∧
      ParserMove c (stamp now (setSt .awaitingStart (clearFrame s))) t) := by
  cases hh : s.inHandler
  · rw [execFeed_admitted c now hh] at h
    obtain ⟨hi, hr⟩ | ⟨hi, hr⟩ := staleReset_cases now s <;> rw [hr] at h
    · exact .inr (.inl ⟨rfl, hi, parseByte_move h⟩)
    · exact .inr (.inr ⟨rfl, hi, parseByte_move h⟩)
  · rw [execFeed_in_handler c now hh] at h
    cases h
    exact .inl ⟨rfl, rfl⟩

/-- Everything a REGISTER can do (41_dispatch.md R90). -/
theorem execRegister_cases {id : CmdId} {h : HandlerId} {s t : State} (ht : execRegister id h s = .next t) :
    (s.inHandler = true ∧ t = refuse .registerDuringHandler s) ∨ (s.inHandler = false ∧ t = regWrite id h s) := by
  unfold execRegister at ht
  cases hh : s.inHandler <;> simp only [hh, if_true, if_false, Bool.false_eq_true] at ht <;> cases ht
  · exact .inr ⟨rfl, rfl⟩
  · exact .inl ⟨rfl, rfl⟩

/-- Everything a HANDLER_RETURN can do (41_dispatch.md R92). -/
theorem execHandlerReturn_cases {s t : State} (ht : execHandlerReturn s = .next t) :
    (s.inHandler = true ∧ t = leaveHandler s) ∨ (s.inHandler = false ∧ t = refuse .returnWithoutHandler s) := by
  unfold execHandlerReturn at ht
  cases hh : s.inHandler <;> simp only [hh, if_true, if_false, Bool.false_eq_true] at ht <;> cases ht
  · exact .inr ⟨rfl, rfl⟩
  · exact .inl ⟨rfl, rfl⟩

/-- Everything a SEND can do (42_encoder.md R93). -/
theorem execSend_cases {id : CmdId} {n : Nat} {payload : Option (List Byte)} {s t : State}
    (ht : execSend id n payload s = .next t) :
    ((suppliedBytes payload).length < sendLength s.cfg n payload ∧ t = refuse .shortPayload s) ∨
    (sendLength s.cfg n payload ≤ (suppliedBytes payload).length ∧
      t = emit (.txFrame (frame s.cfg id ((suppliedBytes payload).take (sendLength s.cfg n payload)))) s) := by
  unfold execSend at ht
  split at ht <;> rename_i hl <;> cases ht
  · exact .inl ⟨hl, rfl⟩
  · refine .inr ⟨by omega, ?_⟩
    have : ((suppliedBytes payload).take (sendLength s.cfg n payload)).length = sendLength s.cfg n payload := by
      simp
      omega
    simp only [wireBytes, frame, this]

end Sys2Proof.Laws
end

