-- ==== Sys2Proof/Laws/Invariant.lean ====
section
/-! SUPPORT. The invariant (10_state.md R31) under the shared operations: the staleness reset, the timestamp, an emitted event,
and each move of the parser. -/

namespace Sys2Proof.Laws

open Sys2Proof.Machine

theorem fits_first (w : CmdWidth) (c : Byte) : (⟨c, 0#8⟩ : CmdId).fits w = true := by
  cases w <;> rfl

/-- Counting one more byte does not wrap while there is room (10_state.md R24). -/
theorem toNat_succ_of_lt {a b : Byte} (h : a.toNat < b.toNat) : (a + 1#8).toNat = a.toNat + 1 := by
  have := b.isLt
  simp
  omega

theorem inv_clear {s : State} (hi : s.Inv) : (setSt .awaitingStart (clearFrame s)).Inv := by
  have hc := config_wf hi.cfg_wf
  constructor <;> simp [hi.cfg_wf, hc, hi.lastT_lt, hi.rb_wf, hi.reg_rising, -Prod.forall]
  · exact hi.rb_index
  · exact hi.reg_key
  · exact hi.reg_handler
  · exact hi.trace_wf

theorem inv_staleReset {s : State} (now : Nat) (hi : s.Inv) : (staleReset now s).Inv := by
  obtain ⟨-, h⟩ | ⟨-, h⟩ := staleReset_cases now s <;> rw [h]
  · exact hi
  · exact inv_clear hi

theorem inv_stamp {s : State} {now : Nat} (hi : s.Inv) (hn : now < 2 ^ s.cfg.clockWidth) : (stamp now s).Inv :=
  { hi with lastT_lt := hn }

theorem inv_setTooLarge {s : State} (hi : s.Inv) : (setTooLarge s).Inv := { hi with }

theorem inv_emit {s : State} {e : Event} (hi : s.Inv) (h : e.wf s.cfg) : (emit e s).Inv := by
  have : ∀ x ∈ (emit e s).trace, x.wf s.cfg := by
    intro x hx
    obtain h' | rfl : x ∈ s.trace ∨ x = e := by simpa using hx
    · exact hi.trace_wf x h'
    · exact h
  exact { hi with trace_wf := this }

/-- A handler that a lookup finds is a value of the instance's type `HandlerId`. -/
theorem has_of_regLookup {s : State} {id : CmdId} {h : HandlerId} (hi : s.Inv) (hl : regLookup s id = some h) :
    s.cfg.handlerType.has h = true :=
  hi.reg_handler _ (mem_of_lookup hl)

/-- DISPATCH of a full frame followed by the clear (40_parser.md R77). -/
theorem inv_etx {s u : State} (hi : s.Inv) (hs : s.st = .awaitingEnd) (hu : execDispatch s.cmd s.len s = .next u) :
    (setSt .awaitingStart (clearFrame u)).Inv := by
  have hd := hi.cmd_folded (.inr (.inr hs))
  have ev : ∀ k f, s.cfg.handlerType.has f = true → (setInHandler true (emit (.dispatch k f s.cmd s.len (rbBytes s 0 s.len.toNat))
      (setSt .awaitingStart (clearFrame s)))).Inv := fun k f hf =>
    have h : (emit (.dispatch k f s.cmd s.len (rbBytes s 0 s.len.toNat)) (setSt .awaitingStart (clearFrame s))).Inv :=
      inv_emit (inv_clear hi) ⟨by simp, hi.len_le_cap, hi.cmd_fits, hd, hf⟩
    { h with handler_idle := fun _ => rfl }
  obtain ⟨-, ⟨f, hf, rfl⟩ | ⟨f, -, hf, rfl⟩ | ⟨-, -, rfl⟩⟩ := execDispatch_cases hu
  · exact ev .exact f (has_of_regLookup hi hf)
  · exact ev .fallback f (has_of_regLookup hi hf)
  · exact inv_clear hi

/-- The payload byte (40_parser.md R76). -/
theorem inv_payload {c : Byte} {s : State} (hi : s.Inv) (hh : s.inHandler = false) (hs : s.st = .awaitingPayload) :
    State.Inv { s with rb := Memory.write s.rb s.cnt.toNat c, cnt := s.cnt + 1#8,
                       st := if s.cnt + 1#8 = s.len then .awaitingEnd else .awaitingPayload } := by
  have hlt := (hi.payload_open hs).2
  have hcap := hi.len_le_cap
  have hlc : s.cnt.toNat < s.cfg.cap := by omega
  have e := toNat_succ_of_lt hlt
  have ne1 : s.cmdIdx ≠ 1#1 := fun h => by have := (hi.second_expected h).2; simp [hs] at this
  have hd := hi.cmd_folded (.inr (.inl hs))
  by_cases hf : s.cnt + 1#8 = s.len <;> simp only [hf, if_true, if_false]
  · exact { hi with
      st_isState := by simp
      cnt_le_len := by simp
      payload_open := by simp
      end_full := by simp
      early_clear := by simp
      start_noCmd := by simp
      second_expected := fun h => absurd h ne1
      cmd_folded := fun _ => hd
      rb_wf := wf_write _ _ _ hi.rb_wf
      rb_index := index_write hi.rb_index hlc
      handler_idle := by simp [hh] }
  · have hne : (s.cnt + 1#8).toNat ≠ s.len.toNat := fun h => hf (BitVec.eq_of_toNat_eq h)
    exact { hi with
      st_isState := by simp
      cnt_le_len := by show (s.cnt + 1#8).toNat ≤ s.len.toNat; omega
      payload_open := fun _ => ⟨(hi.payload_open hs).1, by show (s.cnt + 1#8).toNat < s.len.toNat; omega⟩
      end_full := by simp
      early_clear := by simp
      start_noCmd := by simp
      second_expected := fun h => absurd h ne1
      cmd_folded := fun _ => hd
      rb_wf := wf_write _ _ _ hi.rb_wf
      rb_index := index_write hi.rb_index hlc
      handler_idle := by simp [hh] }

/-- Every move of the parser keeps the invariant. -/
theorem inv_move {c : Byte} {s t : State} (hi : s.Inv) (hh : s.inHandler = false) (h : ParserMove c s t) : t.Inv := by
  have hc := config_wf hi.cfg_wf
  have hcap := toNat_capByte hc.2.2.1
  cases h with
  | ignore hs hb => exact hi
  | start hs hb =>
    have h := inv_clear hi
    exact { h with
      st_isState := by simp
      payload_open := by simp
      end_full := by simp
      early_clear := by simp
      start_noCmd := by simp
      second_expected := by simp
      cmd_folded := by simp
      handler_idle := by simp [hh] }
  | resync hs he hb =>
    have h := inv_clear hi
    exact { h with
      st_isState := by simp
      payload_open := by simp
      end_full := by simp
      early_clear := by simp
      start_noCmd := by simp
      second_expected := by simp
      cmd_folded := by simp
      handler_idle := by simp [hh] }
  | abort hs he hb => exact inv_clear hi
  | cmdByte hs hw =>
    have ne1 : s.cmdIdx ≠ 1#1 := fun h => by have := (hi.second_expected h).1; simp [hw] at this
    exact { hi with
      st_isState := by simp
      payload_open := by simp
      end_full := by simp
      early_clear := fun _ => hi.early_clear (.inr (.inl hs))
      start_noCmd := by simp
      second_expected := fun h => absurd h ne1
      cmd_fits := fits_first _ c
      first_folded := fun h => absurd h ne1
      cmd_folded := fun _ h => by simp [hw] at h
      handler_idle := by simp [hh] }
  | cmdFirst hs hw hx =>
    exact { hi with
      start_noCmd := by simp [hs]
      second_expected := fun _ => ⟨hw, hs⟩
      cmd_fits := by simp [hw, CmdId.fits]
      first_folded := fun _ => fold_fold _ _
      cmd_folded := by simp [hs] }
  | cmdSecond hs hw hx =>
    exact { hi with
      st_isState := by simp
      payload_open := by simp
      end_full := by simp
      early_clear := fun _ => hi.early_clear (.inr (.inl hs))
      start_noCmd := by simp
      second_expected := by simp
      cmd_fits := by simp [hw, CmdId.fits]
      first_folded := by simp
      cmd_folded := fun _ _ => ⟨hi.first_folded hx, fold_fold _ _⟩
      handler_idle := by simp [hh] }
  | lenZero hs hb =>
    have e := hi.early_clear (.inr (.inr hs))
    exact { hi with
      st_isState := by simp
      cnt_le_len := by simp [e]
      len_le_cap := by simp
      payload_open := by simp
      end_full := fun _ => e.1
      early_clear := by simp
      start_noCmd := by simp
      second_expected := fun h => by have := (hi.second_expected h).2; simp [hs] at this
      cmd_folded := fun _ => hi.cmd_folded (.inl hs)
      handler_idle := by simp [hh] }
  | lenStored hs hb hl =>
    have e := hi.early_clear (.inr (.inr hs))
    have : c.toNat ≠ 0 := fun h => hb (BitVec.eq_of_toNat_eq h)
    exact { hi with
      st_isState := by simp
      cnt_le_len := by simp [e]
      len_le_cap := hl
      payload_open := fun _ => by simp [e]; omega
      end_full := by simp
      early_clear := by simp
      start_noCmd := by simp
      second_expected := fun h => by have := (hi.second_expected h).2; simp [hs] at this
      cmd_folded := fun _ => hi.cmd_folded (.inl hs)
      handler_idle := by simp [hh] }
  | lenClamped hs hl hp =>
    have e := hi.early_clear (.inr (.inr hs))
    have h : (emit (.tooLarge c) (setTooLarge s)).Inv := inv_emit (inv_setTooLarge hi) hl
    exact { h with
      st_isState := by simp
      cnt_le_len := by simp [e]
      len_le_cap := by simp [hcap]
      payload_open := fun _ => by simp [hcap, e]; omega
      end_full := by simp
      early_clear := by simp
      start_noCmd := by simp
      second_expected := fun h => by have := (hi.second_expected h).2; simp [hs] at this
      cmd_folded := fun _ => hi.cmd_folded (.inl hs)
      handler_idle := by simp [hh] }
  | lenRejected hs hl hp => exact inv_clear (inv_emit (inv_setTooLarge hi) hl)
  | payload hs hl => exact inv_payload hi hh hs
  | etx hs hb u hu => exact inv_etx hi hs hu

end Sys2Proof.Laws
end

