-- ==== Sys2Proof/Laws/PerInstr.lean ====
section
/-! SUPPORT. Statements made per instruction. Family `RecordSize`: how many bytes each operation's encoding has
(30_encoding.md R53, R60, R61). -/

namespace Sys2Proof.Laws

@[simp] theorem length_leBytes (k v : Nat) : (leBytes k v).length = k := by
  induction k generalizing v with
  | zero => rfl
  | succ k ih => simp [leBytes, ih]

/-- The size of a command identifier on the wire (30_encoding.md R53). -/
def idSize (w : CmdWidth) : Nat :=
  match w with
  | .one => 1
  | .two => 2

@[simp] theorem length_cmdbytes (w : CmdWidth) (id : CmdId) : (cmdbytes w id).length = idSize w := by
  cases w <;> rfl

/-- How many bytes an operation's encoding has. -/
def encodedSize (cfg : Config) : Instr → Nat
  | .feed _ _ => 2 + bytesFor cfg.clockWidth
  | .register _ h => 1 + idSize cfg.cmdWidth + (numBytes h).length
  | .send _ _ none => 2 + idSize cfg.cmdWidth + bytesFor cfg.txLenWidth
  | .send _ _ (some p) => 2 + idSize cfg.cmdWidth + bytesFor cfg.txLenWidth + (numBytes p.length).length + p.length
  | .handlerReturn => 1
  | .reset => 1
  | .statusRead => 1
  | .reserved110 => 1
  | .reserved111 => 1
  | .feedStart => 2
  | .feedIgnore _ => 2
  | .feedCmdByte _ => 2
  | .feedCmdChar _ => 2
  | .feedLenZero => 2
  | .feedLenMax => 2
  | .feedLenSmall _ => 2
  | .feedLenTooLarge _ => 2
  | .feedPayloadByte _ => 2
  | .feedEnd => 2
  | .feedResync => 2
  | .feedEndAbort _ => 2
  | .dispatch _ _ => 0

namespace RecordSize

def Statement (i : Instr) : Prop := ∀ cfg : Config, (encode cfg i).length = encodedSize cfg i

theorem feed (c : Byte) (now : Nat) : Statement (.feed c now) := by
  intro cfg; simp [encode, encodedSize]; omega
theorem register (id : CmdId) (h : HandlerId) : Statement (.register id h) := by
  intro cfg; simp [encode, encodedSize]; omega
theorem send (id : CmdId) (n : Nat) (payload : Option (List Byte)) : Statement (.send id n payload) := by
  intro cfg; cases payload <;> simp [encode, encodedSize, payloadBytes] <;> omega
theorem handlerReturn : Statement .handlerReturn := fun _ => rfl
theorem reset : Statement .reset := fun _ => rfl
theorem statusRead : Statement .statusRead := fun _ => rfl
theorem reserved110 : Statement .reserved110 := fun _ => rfl
theorem reserved111 : Statement .reserved111 := fun _ => rfl
theorem feedStart : Statement .feedStart := fun _ => rfl
theorem feedIgnore (c : Byte) : Statement (.feedIgnore c) := fun _ => rfl
theorem feedCmdByte (c : Byte) : Statement (.feedCmdByte c) := fun _ => rfl
theorem feedCmdChar (c : Byte) : Statement (.feedCmdChar c) := fun _ => rfl
theorem feedLenZero : Statement .feedLenZero := fun _ => rfl
theorem feedLenMax : Statement .feedLenMax := fun _ => rfl
theorem feedLenSmall (c : Byte) : Statement (.feedLenSmall c) := fun _ => rfl
theorem feedLenTooLarge (c : Byte) : Statement (.feedLenTooLarge c) := fun _ => rfl
theorem feedPayloadByte (c : Byte) : Statement (.feedPayloadByte c) := fun _ => rfl
theorem feedEnd : Statement .feedEnd := fun _ => rfl
theorem feedResync : Statement .feedResync := fun _ => rfl
theorem feedEndAbort (c : Byte) : Statement (.feedEndAbort c) := fun _ => rfl
theorem dispatch (cmd : CmdId) (n : Byte) : Statement (.dispatch cmd n) := fun _ => rfl

end RecordSize

end Sys2Proof.Laws
end

