-- ==== Sys2Proof/Tests/Slice0.lean ====
section
/-! SUPPORT. The model's own tests. Expected results are the spec's: 95_test_vectors.md (V1 to V77, X1 to X8), the masks of
opcode_table.json and 30_encoding.md R61. The last part gives, for every statement with hypotheses, a state and operands that
meet them all. -/

namespace Sys2Proof.Tests

open Sys2Proof.Machine Sys2Proof.Laws

/-! ### States of the vectors -/

/-- The next state, if there is one. -/
def after (r : Result) : Option State :=
  match r with
  | .next s => some s
  | .fault _ => none
  | .refused _ => none

/-- `st/cmd/len/cnt/last_t` of 95_test_vectors.md at the default configuration. -/
def at1 (st : ParserState) (cmd len cnt : Byte) (lastT : Nat) : State :=
  { State.reset with st := st, cmd := ⟨cmd, 0#8⟩, len := len, cnt := cnt, lastT := lastT }

/-- `st/cmd/cmd_idx/last_t` of V31 to V38 (CMD_WIDTH = 2, UPPER). -/
def at2 (st : ParserState) (c₁ c₂ : Byte) (idx : BitVec 1) (lastT : Nat) : State :=
  { State.resetWith Config.defaultWide with st := st, cmd := ⟨c₁, c₂⟩, cmdIdx := idx, lastT := lastT }

/-- CAP = MAX_PAYLOAD_SIZE = 4 (program P4), with the given policy. -/
def smallConfig (p : LenPolicy) : Config := { Config.default with cap := 4, maxPayload := 4, lenPolicy := p }

/-- `REG[0x10] = some h1` (h1 is 1). -/
def withH1 (s : State) : State := { s with reg := [(0x1000, 1)] }

/-- V17: `E/0x10/2/2/4`, `RB[0..2) = [0x03, 0x02]`, `REG[0x10] = some h1`. -/
def fullFrame : State := withH1 { at1 .awaitingEnd 0x10#8 2#8 2#8 4 with rb := [(0, 0x03#8), (1, 0x02#8)] }

/-- `REG[0xFF] = some hf` (hf is 15). -/
def idleFallback : State := { State.reset with reg := [(0xFF00, 15)] }

/-- V22: `P/0x10/4/1/100` with `RB[0] = 0xAA`. -/
def midPayload : State := { at1 .awaitingPayload 0x10#8 4#8 1#8 100 with rb := [(0, 0xAA#8)] }

/-- A complete frame `AB` of the 2-character variant, `len` 0. -/
def fullFrameWide : State :=
  { at2 .awaitingEnd 0x41#8 0x42#8 0#1 4 with reg := [(0x4142, 1), (0x6162, 2)] }

/-! ### Well-formedness: every check refuses an ill-formed term -/

theorem test_wf_default : Config.default.wf = true ∧ Config.defaultWide.wf = true := by decide
theorem test_wf_stx_is_etx : Config.wf { Config.default with etx := 0x02#8 } = false := by decide
theorem test_wf_cap_zero : Config.wf { Config.default with cap := 0 } = false := by decide
theorem test_wf_cap_256 : Config.wf { Config.default with cap := 256 } = false := by decide
theorem test_wf_maxPayload_256 : Config.wf { Config.default with maxPayload := 256 } = false := by decide
theorem test_wf_noCmd_is_invalidCmd : Config.wf { Config.default with invalidCmd := ⟨0#8, 0#8⟩ } = false := by decide
theorem test_wf_clock_of_no_bits : Config.wf { Config.default with clockWidth := 0 } = false := by decide
theorem test_wf_txLen_of_7_bits : Config.wf { Config.default with txLenWidth := 7 } = false := by decide
theorem test_wf_noCmd_too_wide : Config.wf { Config.default with noCmd := ⟨0#8, 1#8⟩ } = false := by decide
theorem test_wf_invalidCmd_too_wide : Config.wf { Config.default with invalidCmd := ⟨1#8, 1#8⟩ } = false := by decide
theorem test_wf_feed_clock : Instr.wf Config.default (.feed 0#8 (2 ^ 32)) = false := by decide
theorem test_wf_register_identifier : Instr.wf Config.default (.register ⟨0#8, 1#8⟩ 1) = false := by decide
theorem test_wf_register_handler :
    Instr.wf { Config.default with handlerType := .finite 3 } (.register ⟨0#8, 0#8⟩ 3) = false := by decide
theorem test_wf_send_identifier : Instr.wf Config.default (.send ⟨0#8, 1#8⟩ 0 none) = false := by decide
theorem test_wf_send_length : Instr.wf Config.default (.send ⟨0#8, 0#8⟩ 65536 none) = false := by decide
theorem test_wf_ignore_of_stx : Instr.wf Config.default (.feedIgnore 0x02#8) = false := by decide
theorem test_wf_cmd_byte_at_width_2 : Instr.wf Config.defaultWide (.feedCmdByte 0#8) = false := by decide
theorem test_wf_cmd_char_at_width_1 : Instr.wf Config.default (.feedCmdChar 0#8) = false := by decide
theorem test_wf_len_small : Instr.wf Config.default (.feedLenSmall 0#8) = false
    ∧ Instr.wf Config.default (.feedLenSmall 0x80#8) = false := by decide
theorem test_wf_len_too_large : Instr.wf Config.default (.feedLenTooLarge 0x80#8) = false := by decide
theorem test_wf_end_abort : Instr.wf Config.default (.feedEndAbort 0x03#8) = false
    ∧ Instr.wf Config.default (.feedEndAbort 0x02#8) = false := by decide
theorem test_wf_dispatch : Instr.wf Config.default (.dispatch ⟨0x10#8, 1#8⟩ 0#8) = false
    ∧ Instr.wf Config.default (.dispatch ⟨0x10#8, 0#8⟩ 0x81#8) = false := by decide
theorem test_powerOn_refuses : after (State.powerOn { Config.default with cap := 0 }) = none := by decide

/-! ### Decoding: words written out from opcode_table.json (selector bits 2:0; key `st[2:0] ++ c[7:0]`) -/

theorem test_decode_feed : decodeTableWord 8 0b000 = some (.feed 0#8 0) := by decide
theorem test_decode_register : decodeTableWord 8 0b001 = some (.register ⟨0#8, 0#8⟩ 0) := by decide
theorem test_decode_send : decodeTableWord 8 0b010 = some (.send ⟨0#8, 0#8⟩ 0 none) := by decide
theorem test_decode_handlerReturn : decodeTableWord 8 0b011 = some .handlerReturn := by decide
theorem test_decode_reset : decodeTableWord 8 0b100 = some .reset := by decide
theorem test_decode_statusRead : decodeTableWord 8 0b101 = some .statusRead := by decide
theorem test_decode_reserved110 : decodeTableWord 8 0b110 = some .reserved110 := by decide
theorem test_decode_reserved111 : decodeTableWord 8 0b111 = some .reserved111 := by decide
theorem test_decode_selector_padding : decodeTableWord 8 0b00001011 = none := by decide
theorem test_decode_start : decodeTableWord 16 0b00000000010 = some .feedStart := by decide
theorem test_decode_ignore : decodeTableWord 16 0b00000000011 = some (.feedIgnore 0x03#8) := by decide
theorem test_decode_cmdByte : decodeTableWord 16 0b00111111111 = some (.feedCmdByte 0xFF#8) := by decide
theorem test_decode_cmdChar :
    decodeTableWordFor Config.defaultWide 16 0b00101100001 = some (.feedCmdChar 0x61#8) := by decide
theorem test_decode_lenZero : decodeTableWord 16 0b01000000000 = some .feedLenZero := by decide
theorem test_decode_lenMax : decodeTableWord 16 0b01010000000 = some .feedLenMax := by decide
theorem test_decode_lenSmall : decodeTableWord 16 0b01001111111 = some (.feedLenSmall 0x7F#8) := by decide
theorem test_decode_lenTooLarge : decodeTableWord 16 0b01010000001 = some (.feedLenTooLarge 0x81#8) := by decide
theorem test_decode_payloadByte : decodeTableWord 16 0b01100000011 = some (.feedPayloadByte 0x03#8) := by decide
theorem test_decode_end : decodeTableWord 16 0b10000000011 = some .feedEnd := by decide
theorem test_decode_resync : decodeTableWord 16 0b10000000010 = some .feedResync := by decide
theorem test_decode_endAbort : decodeTableWord 16 0b10001010101 = some (.feedEndAbort 0x55#8) := by decide
theorem test_decode_not_a_state : decodeTableWord 16 0b10100000011 = none ∧ decodeTableWord 16 0b11111111111 = none := by
  decide
theorem test_decode_key_padding : decodeTableWord 16 0b0000100000000010 = none := by decide

/-- P1 step 2, `000 | 02 | 00000064`, in the model's byte layout. -/
theorem test_decode_feed_operands :
    decodeRecord Config.default [0x00#8, 0x02#8, 0x64#8, 0x00#8, 0x00#8, 0x00#8] = .ok (.feed 0x02#8 100, []) := by decide
/-- A handler's name of more than one group of 7 bits, and one that the instance's type `HandlerId` does not have. -/
theorem test_decode_register_operands :
    decodeRecord Config.default [0x01#8, 0x10#8, 0x80#8, 0x80#8, 0x04#8] = .ok (.register ⟨0x10#8, 0#8⟩ 65536, [])
    ∧ decodeRecord { Config.default with handlerType := .finite 3 } [0x01#8, 0x10#8, 0x03#8] = .error .notAHandler := by
  decide
/-- P5 step 1, `010 | 10 | 1 | 0002 | [AA BB]`, in the model's byte layout. -/
theorem test_decode_send_operands :
    decodeRecord Config.default [0x02#8, 0x10#8, 0x01#8, 0x02#8, 0x00#8, 0x02#8, 0xAA#8, 0xBB#8] =
      .ok (.send ⟨0x10#8, 0#8⟩ 2 (some [0xAA#8, 0xBB#8]), []) := by decide

/-! ### FEED (V1 to V38) -/

/-- V2: an ignored byte still sets `last_t`. -/
theorem test_V2_feed_ignored :
    after (exec (.feed 0x41#8 500) State.reset) = some (at1 .awaitingStart 0x00#8 0#8 0#8 500) := by decide
/-- V1: FEED.START by its own row. -/
theorem test_V1_start : after (exec .feedStart (at1 .awaitingStart 0x10#8 2#8 2#8 0)) =
    some (at1 .awaitingCommand 0x00#8 0#8 0#8 0) := by decide
/-- V3: ETX is ignored in AwaitingStart. -/
theorem test_V3_ignore : after (exec (.feedIgnore 0x03#8) State.reset) = some State.reset := by decide
/-- V4: a second STX is the command byte. -/
theorem test_V4_cmdByte : after (exec (.feed 0x02#8 1) (at1 .awaitingCommand 0x00#8 0#8 0#8 0)) =
    some (at1 .awaitingLength 0x02#8 0#8 0#8 1) := by decide
/-- V5, by the row. -/
theorem test_V5_cmdByte : after (exec (.feedCmdByte 0xFF#8) (at1 .awaitingCommand 0x00#8 0#8 0#8 0)) =
    some (at1 .awaitingLength 0xFF#8 0#8 0#8 0) := by decide
/-- V31: 'a' folds to 'A', the first character. -/
theorem test_V31_cmdChar : after (exec (.feedCmdChar 0x61#8) (at2 .awaitingCommand 0x00#8 0x00#8 0#1 0)) =
    some (at2 .awaitingCommand 0x41#8 0x00#8 1#1 0) := by decide
/-- V32: 'b' folds to 'B', the second character. -/
theorem test_V32_cmdChar : after (exec (.feedCmdChar 0x62#8) (at2 .awaitingCommand 0x41#8 0x00#8 1#1 0)) =
    some (at2 .awaitingLength 0x41#8 0x42#8 0#1 0) := by decide
/-- V34, V35, V36: bytes that are no letters, and the other fold. -/
theorem test_V34_V35_V36_fold : fold .upper 0xE1#8 = 0xE1#8 ∧ fold .upper 0x5B#8 = 0x5B#8 ∧ fold .lower 0x41#8 = 0x61#8 := by
  decide
/-- V6. -/
theorem test_V6_lenZero : after (exec .feedLenZero (at1 .awaitingLength 0x10#8 0#8 0#8 1)) =
    some (at1 .awaitingEnd 0x10#8 0#8 0#8 1) := by decide
/-- V8: `c = CAP` sets no flag. -/
theorem test_V8_lenMax : after (exec .feedLenMax (at1 .awaitingLength 0x10#8 0#8 0#8 1)) =
    some (at1 .awaitingPayload 0x10#8 128#8 0#8 1) := by decide
/-- V12: STX as a length. -/
theorem test_V12_lenSmall : after (exec (.feedLenSmall 0x02#8) (at1 .awaitingLength 0x10#8 0#8 0#8 1)) =
    some (at1 .awaitingPayload 0x10#8 2#8 0#8 1) := by decide
/-- V9. -/
theorem test_V9_lenTooLarge : after (exec (.feedLenTooLarge 0x81#8) (at1 .awaitingLength 0x10#8 0#8 0#8 1)) =
    some { at1 .awaitingPayload 0x10#8 128#8 0#8 1 with tooLarge := true, trace := [.tooLarge 0x81#8] } := by decide
/-- P4 (b), step 3: LEN_POLICY = REJECT. -/
theorem test_P4_lenTooLarge_reject :
    after (exec (.feedLenTooLarge 0x06#8)
      { State.resetWith (smallConfig .reject) with st := .awaitingLength, cmd := ⟨0x10#8, 0#8⟩, lastT := 1 }) =
    some { State.resetWith (smallConfig .reject) with lastT := 1, tooLarge := true, trace := [.tooLarge 0x06#8] } := by decide
/-- V14: STX as data, the last byte. -/
theorem test_V14_payloadByte :
    after (exec (.feedPayloadByte 0x02#8) { at1 .awaitingPayload 0x10#8 2#8 1#8 3 with rb := [(0, 0x03#8)] }) =
    some { at1 .awaitingEnd 0x10#8 2#8 2#8 3 with rb := [(0, 0x03#8), (1, 0x02#8)] } := by decide
/-- V15: the last index of RB. -/
theorem test_V15_payloadByte :
    after (exec (.feedPayloadByte 0x55#8) (at1 .awaitingPayload 0x10#8 128#8 127#8 4)) =
    some { at1 .awaitingEnd 0x10#8 128#8 128#8 4 with rb := [(127, 0x55#8)] } := by decide
/-- V17: the frame is dispatched with its bytes, then the registers are cleared. -/
theorem test_V17_end :
    after (exec .feedEnd fullFrame) =
    some { withH1 (at1 .awaitingStart 0x00#8 0#8 0#8 4) with
           rb := [(0, 0x03#8), (1, 0x02#8)], inHandler := true
           trace := [.dispatch .exact 1 ⟨0x10#8, 0#8⟩ 2#8 [0x03#8, 0x02#8]] } := by decide
/-- V18. -/
theorem test_V18_resync : after (exec .feedResync (at1 .awaitingEnd 0x10#8 2#8 2#8 4)) =
    some (at1 .awaitingCommand 0x00#8 0#8 0#8 4) := by decide
/-- V19. -/
theorem test_V19_endAbort : after (exec (.feedEndAbort 0x55#8) (at1 .awaitingEnd 0x10#8 2#8 2#8 4)) =
    some (at1 .awaitingStart 0x00#8 0#8 0#8 4) := by decide
/-- V23: stale, then 0x55 is ignored. -/
theorem test_V23_feed_stale : after (exec (.feed 0x55#8 111) midPayload) =
    some { at1 .awaitingStart 0x00#8 0#8 0#8 111 with rb := [(0, 0xAA#8)] } := by decide
/-- V22, V25, V26, V29: elapsed 10 is in time, 11 is not; the clock wraps; a clock that goes backwards. -/
theorem test_V22_V25_V26_V29_elapsed :
    isStale 110 midPayload = false ∧ isStale 4 { midPayload with lastT := 0xFFFFFFFA } = false
    ∧ isStale 5 { midPayload with lastT := 0xFFFFFFFA } = true ∧ elapsed 95 midPayload = 2 ^ 32 - 5 := by decide

/-! ### DISPATCH, REGISTER, HANDLER_RETURN (V40 to V55) -/

/-- V47: the fallback receives the identifier as received. -/
theorem test_V47_dispatch_fallback :
    (after (exec (.dispatch ⟨0x11#8, 0#8⟩ 0#8) { State.reset with reg := [(0x1000, 1), (0xFF00, 15)] })).map State.trace =
    some [.dispatch .fallback 15 ⟨0x11#8, 0#8⟩ 0#8 []] := by decide
/-- V43: no exact match, no fallback. -/
theorem test_V43_dispatch_drop :
    after (exec (.dispatch ⟨0x20#8, 0#8⟩ 0#8) (withH1 State.reset)) = some (withH1 State.reset) := by decide
/-- V49: the second registration overwrites. -/
theorem test_V49_register :
    after (exec (.register ⟨0x10#8, 0#8⟩ 2) (withH1 State.reset)) = some { State.reset with reg := [(0x1000, 2)] } := by decide
/-- V51. -/
theorem test_V51_register_refused :
    after (exec (.register ⟨0x10#8, 0#8⟩ 1) { State.reset with inHandler := true }) =
    some { State.reset with inHandler := true, refusals := [.registerDuringHandler] } := by decide
/-- V54. -/
theorem test_V54_handlerReturn_refused :
    after (exec .handlerReturn State.reset) = some { State.reset with refusals := [.returnWithoutHandler] } := by decide
/-- V55. -/
theorem test_V55_handlerReturn :
    after (exec .handlerReturn { State.reset with inHandler := true }) = some State.reset := by decide

/-! ### SEND (V56 to V69) -/

/-- V63, V57: the clamp takes the first bytes; an absent payload ignores `n`. -/
theorem test_V63_V57_send :
    (after (exec (.send ⟨0x10#8, 0#8⟩ 1 (some [0xAA#8, 0xBB#8, 0xCC#8])) State.reset)).map State.trace =
      some [.txFrame [0x02#8, 0x10#8, 0x01#8, 0xAA#8, 0x03#8]]
    ∧ (after (exec (.send ⟨0x10#8, 0#8⟩ 5 none) State.reset)).map State.trace =
      some [.txFrame [0x02#8, 0x10#8, 0x00#8, 0x03#8]] := by decide
/-- V62, V67: a short payload is refused; no folding of a sent identifier. -/
theorem test_V62_V67_send :
    after (exec (.send ⟨0x10#8, 0#8⟩ 3 (some [0xAA#8])) State.reset) = some { State.reset with refusals := [.shortPayload] }
    ∧ (after (exec (.send ⟨0x61#8, 0x62#8⟩ 0 none) (State.resetWith Config.defaultWide))).map State.txStream =
      some [0x02#8, 0x61#8, 0x62#8, 0x00#8, 0x03#8] := by decide

/-! ### RESET, STATUS_READ, reserved selectors (V70 to V77) -/

/-- V72: everything back to reset but the trace; the buffer's new bytes are free. -/
theorem test_V72_reset :
    (after (exec .reset { withH1 midPayload with tooLarge := true, trace := [.tooLarge 0x81#8] })).map
      (fun t => { t with rb := [], free := 0 }) = some { State.reset with trace := [.tooLarge 0x81#8] } := by rfl
/-- V73: RESET is admitted while a handler runs. -/
theorem test_V73_reset_in_handler :
    (after (exec .reset { State.reset with inHandler := true })).map State.inHandler = some false := by rfl
/-- V70, V71: STATUS_READ returns the sticky bit and does not clear it. -/
theorem test_V70_V71_statusRead :
    after (exec .statusRead State.reset) = some { State.reset with result := some 0x00#8 }
    ∧ after (exec .statusRead { State.reset with tooLarge := true }) =
      some { State.reset with tooLarge := true, result := some 0x01#8 } := by decide
/-- V76. -/
theorem test_V76_reserved110 :
    after (exec .reserved110 State.reset) = some { State.reset with refusals := [.reservedOp] } := by decide
/-- V77. -/
theorem test_V77_reserved111 :
    after (exec .reserved111 State.reset) = some { State.reset with refusals := [.reservedOp] } := by decide

/-! ### One step from the port -/

/-- 60_exceptions.md R122: with no record pending the block holds its state. -/
theorem test_step_idle : after (step State.reset) = some State.reset := by decide
/-- A table word placed on the reset state is what the next step runs: the selector of STATUS_READ, and the key of LEN_MAX. -/
theorem test_step_placed_words :
    after (step (State.reset.withFetchWord 8 0b101)) =
      some { State.reset with port := List.replicate 10 0#8, result := some 0x00#8 }
    ∧ (after (step (State.reset.withFetchWord 16 0b01010000000))).map State.len = some 128#8 := by decide
/-! ### Witnesses: for every statement with hypotheses, a state and operands that meet all of them -/

/-- V17's state meets the invariant. -/
theorem fullFrame_inv : fullFrame.Inv := by
  constructor <;> first | decide | skip
  · exact fun _ h => absurd h (by decide)
  · intro e he
    obtain rfl : e = (0x1000, 1) := by simpa [fullFrame, withH1] using he
    exact ⟨⟨0x10#8, 0#8⟩, by decide, by decide⟩
  · exact fun e he => absurd he (by simp [fullFrame, withH1, at1, State.reset, State.resetWith])

/-- V22's state meets the invariant. -/
theorem midPayload_inv : midPayload.Inv := by
  constructor <;> first | decide | skip
  · exact fun _ h => absurd h (by decide)
  · exact fun e he => absurd he (by simp [midPayload, at1, State.reset, State.resetWith])
  · exact fun e he => absurd he (by simp [midPayload, at1, State.reset, State.resetWith])

/-- A complete frame of the 2-character variant meets the invariant. -/
theorem fullFrameWide_inv : fullFrameWide.Inv := by
  constructor <;> first | decide | skip
  · exact fun _ _ => by decide
  · intro e he
    obtain rfl | rfl : e = (0x4142, 1) ∨ e = (0x6162, 2) := by simpa [fullFrameWide] using he
    · exact ⟨⟨0x41#8, 0x42#8⟩, by decide, by decide⟩
    · exact ⟨⟨0x61#8, 0x62#8⟩, by decide, by decide⟩
  · exact fun e he => absurd he (by simp [fullFrameWide, at2, State.resetWith])

/-- `AwaitingStart` with a handler registered meets the invariant. -/
theorem idleH1_inv : (withH1 State.reset).Inv := by
  constructor <;> first | decide | skip
  · exact fun _ h => absurd h (by decide)
  · intro e he
    obtain rfl : e = (0x1000, 1) := by simpa [withH1] using he
    exact ⟨⟨0x10#8, 0#8⟩, by decide, by decide⟩
  · exact fun e he => absurd he (by simp [withH1, State.reset, State.resetWith])

theorem idleFallback_inv : idleFallback.Inv := by
  constructor <;> first | decide | skip
  · exact fun _ h => absurd h (by decide)
  · intro e he
    obtain rfl : e = (0xFF00, 15) := by simpa [idleFallback] using he
    exact ⟨⟨0xFF#8, 0#8⟩, by decide, by decide⟩
  · exact fun e he => absurd he (by simp [idleFallback, State.reset, State.resetWith])

theorem test_witness_RecordsRoundTrip :
    Instr.wf { Config.default with handlerType := .finite 3 } (.register ⟨0x10#8, 0#8⟩ 2) = true
    ∧ Instr.isRecord (.feed 0xFF#8 (2 ^ 32 - 1)) = true ∧ Instr.wf Config.default (.feed 0xFF#8 (2 ^ 32 - 1)) = true
    ∧ Instr.isRecord (.register ⟨0xFF#8, 0xFF#8⟩ 65535) = true
    ∧ Instr.wf Config.defaultWide (.register ⟨0xFF#8, 0xFF#8⟩ 65535) = true
    ∧ Instr.isRecord (.send ⟨0x10#8, 0#8⟩ 65535 (some [0xAA#8])) = true
    ∧ Instr.wf Config.default (.send ⟨0x10#8, 0#8⟩ 65535 (some [0xAA#8])) = true := by decide
theorem test_witness_ParserKeysRoundTrip :
    Config.default.wf = true ∧ Instr.isRow (.feedLenSmall 1#8) = true ∧ Instr.wf Config.default (.feedLenSmall 1#8) = true
    ∧ Instr.wf Config.default (.feedLenSmall 127#8) = true ∧ Instr.wf Config.default (.feedLenTooLarge 129#8) = true
    ∧ Instr.wf Config.default (.feedLenTooLarge 255#8) = true ∧ Instr.wf Config.default (.feedEndAbort 0#8) = true := by decide
theorem test_witness_DecodedRecordsAreWellFormed :
    decodeRecord Config.default [0x01#8, 0x10#8, 0xFF#8, 0x01#8] = .ok (.register ⟨0x10#8, 0#8⟩ 255, []) := by decide
theorem test_witness_EveryKeyOfAStateHasItsRow :
    Config.default.wf = true ∧ (∀ k, ParserState.awaitingEnd ≠ .notState k) ∧ (∃ k, ParserState.notState 2 = .notState k) := by
  decide
theorem test_witness_HelpersFollowTheirDefinitions :
    (0x61 ≤ (0x61#8).toNat ∧ (0x61#8).toNat ≤ 0x7A) ∧ (0x61 ≤ (0x7A#8).toNat ∧ (0x7A#8).toNat ≤ 0x7A)
    ∧ ((0x60#8).toNat < 0x61 ∨ 0x7A < (0x60#8).toNat) ∧ ((0x7B#8).toNat < 0x61 ∨ 0x7A < (0x7B#8).toNat)
    ∧ (0x41 ≤ (0x41#8).toNat ∧ (0x5A#8).toNat ≤ 0x5A)
    ∧ ((0x40#8).toNat < 0x41 ∨ 0x5A < (0x40#8).toNat) ∧ ((0x5B#8).toNat < 0x41 ∨ 0x5A < (0x5B#8).toNat) := by decide
theorem test_witness_WireFrameHasTheFieldOffsets :
    (List.replicate 255 0#8).length ≤ 255 ∧ Config.default.cmdWidth = .one ∧ Config.defaultWide.cmdWidth = .two := by
  rw [List.length_replicate]
  decide
theorem test_witness_BufferPrimitivesReadWhatWasWritten :
    127 < State.reset.cfg.cap ∧ State.reset.cfg.cap ≤ 128 ∧ 0 + 128 ≤ State.reset.cfg.cap ∧ State.reset.cfg.cap < 127 + 2 := by
  decide
theorem test_witness_StepRunsTheDecodedRecord :
    decodeRecord State.reset.cfg [0x03#8] = .ok (.handlerReturn, []) ∧ State.reset.port = []
    ∧ decodeRecord State.reset.cfg [0x08#8] = .error .selectorPadding
    ∧ decodeRecord State.reset.cfg [0x00#8] = .error .truncated := by decide
theorem test_witness_IssuedRecordRunsNext :
    State.reset.port = [] ∧ Instr.isRecord (.register ⟨0x10#8, 0#8⟩ 1) = true
    ∧ Instr.wf State.reset.cfg (.register ⟨0x10#8, 0#8⟩ 1) = true := by decide
theorem test_witness_IllFormedConfigurationIsNotBuilt :
    (Config.mk .one 256 128 10 32 2#8 3#8 ⟨0#8, 0#8⟩ ⟨1#8, 0#8⟩ .clamp .upper .unbounded 16).cap > 255
    ∧ (smallConfig .clamp).stx ≠ (smallConfig .clamp).etx ∧ 1 ≤ (smallConfig .clamp).cap ∧ (smallConfig .clamp).cap ≤ 255
    ∧ (smallConfig .clamp).maxPayload ≤ 255 ∧ (smallConfig .clamp).noCmd ≠ (smallConfig .clamp).invalidCmd
    ∧ 1 ≤ (smallConfig .clamp).clockWidth ∧ 8 ≤ (smallConfig .clamp).txLenWidth
    ∧ (smallConfig .clamp).noCmd.fits (smallConfig .clamp).cmdWidth = true
    ∧ (smallConfig .clamp).invalidCmd.fits (smallConfig .clamp).cmdWidth = true := by decide
theorem test_witness_ResetValuesAreThoseOfTheTable : midPayload.cfg = Config.default := rfl
theorem test_witness_InvariantHoldsAtReset :
    Config.wf { Config.defaultWide with cap := 1, maxPayload := 0, clockWidth := 1, txLenWidth := 8 } = true := by decide
theorem test_witness_StepKeepsTheInvariant :
    (issue (.feed 0x03#8 5) fullFrame).Inv ∧ ∃ t, step (issue (.feed 0x03#8 5) fullFrame) = .next t :=
  ⟨{ fullFrame_inv with }, _, rfl⟩
theorem test_witness_AwaitingStartWaitsForStx :
    State.reset.inHandler = false ∧ State.reset.st = .awaitingStart ∧ 0x02#8 = State.reset.cfg.stx
    ∧ 0x03#8 ≠ State.reset.cfg.stx := by decide
theorem test_witness_CommandByteIsStoredAsReceived :
    (at1 .awaitingCommand 0#8 0#8 0#8 0).takesByteInTime 10 ∧ (at1 .awaitingCommand 0#8 0#8 0#8 0).cfg.cmdWidth = .one
    ∧ (at1 .awaitingCommand 0#8 0#8 0#8 0).st = .awaitingCommand := by decide
theorem test_witness_CommandCharactersAreFoldedInOrder :
    (at2 .awaitingCommand 0#8 0#8 0#1 0).takesByteInTime 10 ∧ (at2 .awaitingCommand 0#8 0#8 0#1 0).cfg.cmdWidth = .two
    ∧ (at2 .awaitingCommand 0#8 0#8 0#1 0).st = .awaitingCommand ∧ (at2 .awaitingCommand 0#8 0#8 0#1 0).cmdIdx = 0#1
    ∧ (at2 .awaitingCommand 0x41#8 0#8 1#1 1).takesByteInTime 11 ∧ (at2 .awaitingCommand 0x41#8 0#8 1#1 1).cmdIdx = 1#1 := by
  decide
theorem test_witness_ZeroLengthSkipsThePayload :
    (at1 .awaitingLength 0x10#8 0#8 0#8 1).takesByteInTime 11 ∧ (at1 .awaitingLength 0x10#8 0#8 0#8 1).st = .awaitingLength := by
  decide
theorem test_witness_LengthIsStoredClampedOrRejected :
    (at1 .awaitingLength 0x10#8 0#8 0#8 1).takesByteInTime 2 ∧ (at1 .awaitingLength 0x10#8 0#8 0#8 1).st = .awaitingLength
    ∧ 0x80#8 ≠ 0x00#8 ∧ (0x80#8).toNat ≤ Config.default.cap ∧ Config.default.cap < (0x81#8).toNat
    ∧ Config.default.lenPolicy = .clamp ∧ (smallConfig .reject).cap < (0x05#8).toNat ∧ (smallConfig .reject).lenPolicy = .reject := by
  decide
theorem test_witness_PayloadByteIsAppended :
    (at1 .awaitingPayload 0x10#8 128#8 127#8 4).takesByteInTime 5 ∧ (at1 .awaitingPayload 0x10#8 128#8 127#8 4).st = .awaitingPayload
    ∧ (at1 .awaitingPayload 0x10#8 128#8 127#8 4).cnt.toNat < Config.default.cap
    ∧ Config.default.cap ≤ (at1 .awaitingPayload 0x10#8 128#8 128#8 4).cnt.toNat := by decide
theorem test_witness_OnlyEtxDispatchesTheFrame :
    fullFrame.takesByteInTime 14 ∧ fullFrame.st = .awaitingEnd ∧ fullFrame.len.toNat ≤ fullFrame.cfg.cap := by decide
theorem test_witness_OnlyEtxDispatchesTheFrame_only :
    ∃ t, Instr.isRecord (.feed 0x03#8 5) = true ∧ exec (.feed 0x03#8 5) fullFrame = .next t
      ∧ t.trace = fullFrame.trace ++ [.dispatch .exact 1 ⟨0x10#8, 0#8⟩ 2#8 [0x03#8, 0x02#8]] := ⟨_, rfl, rfl, rfl⟩
theorem test_witness_StxInAwaitingEndRestartsSilently :
    fullFrame.takesByteInTime 14 ∧ fullFrame.st = .awaitingEnd ∧ fullFrame.cfg.stx ≠ fullFrame.cfg.etx := by decide
theorem test_witness_OtherByteInAwaitingEndAborts :
    fullFrame.takesByteInTime 14 ∧ fullFrame.st = .awaitingEnd ∧ 0x04#8 ≠ fullFrame.cfg.etx ∧ 0x04#8 ≠ fullFrame.cfg.stx := by
  decide
theorem test_witness_FeedDuringHandlerIsRefused : State.inHandler { State.reset with inHandler := true } = true := by decide
theorem test_witness_ElapsedTimeWrapsOnce :
    midPayload.lastT < 2 ^ midPayload.cfg.clockWidth ∧ 2 ^ 32 - 1 < 2 ^ midPayload.cfg.clockWidth
    ∧ midPayload.lastT ≤ 100 ∧ 99 < midPayload.lastT := by decide
theorem test_witness_StaleFrameIsDiscardedBeforeTheByte :
    midPayload.inHandler = false ∧ midPayload.st ≠ .awaitingStart ∧ midPayload.cfg.tStale < elapsed 111 midPayload
    ∧ elapsed 110 midPayload ≤ midPayload.cfg.tStale ∧ State.reset.st = .awaitingStart := by decide
theorem test_witness_EveryAdmittedFeedStampsTheClock :
    (∃ t, exec (.feed 0x41#8 500) State.reset = .next t) ∧ State.reset.inHandler = false
    ∧ ∃ t, exec (.feed 0x41#8 500) { State.reset with inHandler := true } = .next t := ⟨⟨_, rfl⟩, rfl, _, rfl⟩
theorem test_witness_FeedRunsTheRowOfItsKey :
    fullFrame.cfg.wf = true ∧ fullFrame.inHandler = false
    ∧ decodeKey fullFrame.cfg (staleReset 14 fullFrame).st 0x03#8 = some .feedEnd
    ∧ decodeKey State.reset.cfg (staleReset 0 { State.reset with st := .notState 0 }).st 0x03#8 = none := by decide
theorem test_witness_FeedFrame :
    (∃ t, exec (.feed 0x02#8 110) midPayload = .next t) ∧ midPayload.inHandler = false
    ∧ ¬ (fullFrame.st = .awaitingPayload ∧ fullFrame.takesByteInTime 5) ∧ ∃ t, exec (.feed 0x02#8 5) fullFrame = .next t :=
  ⟨⟨_, rfl⟩, rfl, by decide, _, rfl⟩
theorem test_witness_ExactMatchInvokesItsHandler :
    (128#8).toNat ≤ fullFrame.cfg.cap ∧ regLookup fullFrame ⟨0x10#8, 0#8⟩ = some 1 := by decide
theorem test_witness_FallbackHandlesTheUnregistered :
    (128#8).toNat ≤ State.reset.cfg.cap
    ∧ regLookup idleFallback ⟨0x20#8, 0#8⟩ = none
    ∧ regLookup idleFallback State.reset.cfg.invalidCmd = some 15 := by decide
theorem test_witness_UnregisteredFrameIsDropped :
    (128#8).toNat ≤ fullFrame.cfg.cap ∧ regLookup fullFrame ⟨0x20#8, 0#8⟩ = none
    ∧ regLookup fullFrame fullFrame.cfg.invalidCmd = none := by decide
theorem test_witness_DispatchBeyondTheBufferFaults : State.reset.cfg.cap < (129#8).toNat := by decide
theorem test_witness_RegisterInstallsOrOverwrites :
    (withH1 State.reset).inHandler = false ∧ State.inHandler { State.reset with inHandler := true } = true := by decide
theorem test_witness_RegisterIsIdempotent :
    State.reset.inHandler = false ∧ ∃ t, exec (.register ⟨0x10#8, 0#8⟩ 1) State.reset = .next t := ⟨rfl, _, rfl⟩
theorem test_witness_UnfoldedIdentifierIsNeverDispatched :
    fullFrameWide.Inv ∧ fullFrameWide.cfg.cmdWidth = .two ∧ fold fullFrameWide.cfg.caseFold 0x61#8 ≠ 0x61#8
    ∧ ∃ t, exec (.feed 0x03#8 5) fullFrameWide = .next t := ⟨fullFrameWide_inv, rfl, by decide, _, rfl⟩
theorem test_witness_HandlerReturnClearsOnlyTheHandshake :
    State.inHandler { State.reset with inHandler := true } = true ∧ State.reset.inHandler = false := by decide
theorem test_witness_SendEmitsTheClampedFrame : min 200 State.reset.cfg.maxPayload ≤ (List.replicate 128 0#8).length := by
  rw [List.length_replicate]
  decide
theorem test_witness_ShortPayloadIsRefused : (List.replicate 127 0#8).length < min 200 State.reset.cfg.maxPayload := by
  rw [List.length_replicate]
  decide
theorem test_witness_SendCommutesWithTheReceiveSide :
    Instr.isRecord (.feed 0x03#8 5) = true ∧ (∀ id n p, Instr.feed 0x03#8 5 ≠ .send id n p)
    ∧ refusalOf (.send ⟨0x10#8, 0#8⟩ 1 (some [0xAA#8])) fullFrame = none ∧ ∃ t, exec (.feed 0x03#8 5) fullFrame = .next t :=
  ⟨rfl, by simp, rfl, _, rfl⟩
theorem test_witness_RefusedOperationsChangeOnlyTheMark :
    refusalOf .reserved110 State.reset = some .reservedOp ∧ refusalOf .reset State.reset = none
    ∧ ∃ t, exec .reset State.reset = .next t := ⟨rfl, rfl, _, rfl⟩
theorem test_witness_NoHostOperationStops : fullFrame.Inv ∧ Instr.isRecord (.feed 0x03#8 5) = true := ⟨fullFrame_inv, rfl⟩
theorem test_witness_TraceGrowsByAtMostOneEvent : ∃ t, exec .feedEnd fullFrame = .next t := ⟨_, rfl⟩
theorem test_witness_TooLargeIsStickyUntilReset :
    (∃ t, exec (.feed 0x81#8 2) (at1 .awaitingLength 0x10#8 0#8 0#8 1) = .next t) ∧ Instr.feed 0x81#8 2 ≠ .reset :=
  ⟨⟨_, rfl⟩, by simp⟩
/-- Every handler `h` is renamed `h + 100`, and the REGISTER names its handler anew. -/
theorem test_witness_HandlerIdentitiesAreAbstract :
    State.sameUpToHandlers (fun h h' => h' = h + 100)
      { fullFrame with trace := [.dispatch .exact 1 ⟨0x10#8, 0#8⟩ 0#8 []] }
      { fullFrame with reg := [(0x1000, 101)], trace := [.dispatch .exact 101 ⟨0x10#8, 0#8⟩ 0#8 []] }
    ∧ sameOperationUpToHandler (fun h h' => h' = h + 100) (.register ⟨0x10#8, 0#8⟩ 2) (.register ⟨0x10#8, 0#8⟩ 102)
    ∧ sameOperationUpToHandler (fun h h' => h' = h + 100) (.feed 0x03#8 5) (.feed 0x03#8 5) :=
  ⟨⟨rfl, .cons ⟨rfl, rfl⟩ .nil, .cons ⟨rfl, rfl, rfl, rfl, rfl⟩ .nil⟩, .inr ⟨_, _, _, rfl, rfl, rfl⟩,
    .inl ⟨rfl, by simp⟩⟩
theorem test_witness_ConfigurationIsFixed : ∃ t, step (issue .reset fullFrame) = .next t := ⟨_, rfl⟩
theorem test_witness_ParserMovesOnlyAlongItsTransitions :
    fullFrame.inHandler = false ∧ (∃ t, exec (.feed 0x03#8 5) fullFrame = .next t) ∧ Instr.isRecord .statusRead = true
    ∧ (∀ c now, Instr.statusRead ≠ .feed c now) ∧ Instr.statusRead ≠ .reset ∧ ∃ t, exec .statusRead fullFrame = .next t :=
  ⟨rfl, ⟨_, rfl⟩, rfl, by simp, by simp, _, rfl⟩
theorem test_witness_OnlyRegisterAndResetWriteTheRegistry :
    (∃ t, exec .feedEnd fullFrame = .next t) ∧ Instr.feedEnd ≠ .reset ∧ (∀ id h, Instr.feedEnd ≠ .register id h)
    ∧ regLookup fullFrame ⟨0x10#8, 0#8⟩ = some 1 := ⟨⟨_, rfl⟩, by simp, by simp, rfl⟩
theorem test_witness_OnlyPayloadBytesWriteTheBuffer :
    ∃ t, Instr.isRecord (.feed 0x55#8 110) = true ∧ Instr.feed 0x55#8 110 ≠ .reset ∧ exec (.feed 0x55#8 110) midPayload = .next t
      ∧ rbByte t 1 ≠ rbByte midPayload 1 := ⟨_, rfl, by simp, rfl, by decide⟩
theorem test_witness_BytesWithoutStxNeverLeaveAwaitingStart :
    State.reset.inHandler = false ∧ State.reset.st = .awaitingStart
    ∧ ∀ b ∈ [(0x41#8, 0), (0x03#8, 1), (0xFF#8, 2)], b.1 ≠ State.reset.cfg.stx := by decide
/-- X1: the frame `SEND 0x10 [0xAA, 0xBB] 2`, received from `AwaitingStart`, from `AwaitingEnd` in time, and late in a frame;
by the exact match and by the fallback. -/
theorem test_witness_SentFramesAreReceived :
    ((withH1 State.reset).Inv ∧ idleFallback.Inv ∧ fullFrame.Inv ∧ midPayload.Inv)
    ∧ ((withH1 State.reset).inHandler = false ∧ idleFallback.inHandler = false ∧ fullFrame.inHandler = false ∧ midPayload.inHandler = false)
    ∧ ((withH1 State.reset).st = .awaitingStart ∧ idleFallback.st = .awaitingStart ∧ fullFrame.st = .awaitingEnd ∧ isStale 111 midPayload = true)
    ∧ (∃ a', exec (.send ⟨0x10#8, 0#8⟩ 2 (some [0xAA#8, 0xBB#8])) State.reset = .next a'
        ∧ a'.trace = State.reset.trace ++ [.txFrame [0x02#8, 0x10#8, 0x02#8, 0xAA#8, 0xBB#8, 0x03#8]])
    ∧ CmdId.fits Config.default.cmdWidth ⟨0x10#8, 0#8⟩ = true ∧ CmdId.folded Config.default ⟨0x10#8, 0#8⟩
    ∧ sendLength Config.default 2 (some [0xAA#8, 0xBB#8]) ≤ Config.default.cap
    ∧ [111, 121, 122, 123, 124, 134].length = [0x02#8, 0x10#8, 0x02#8, 0xAA#8, 0xBB#8, 0x03#8].length
    ∧ (∀ t ∈ [111, 121, 122, 123, 124, 134], t < 2 ^ Config.default.clockWidth)
    ∧ steady Config.default [111, 121, 122, 123, 124, 134] = true
    ∧ regLookup (withH1 State.reset) ⟨0x10#8, 0#8⟩ = some 1
    ∧ regLookup idleFallback ⟨0x10#8, 0#8⟩ = none
    ∧ regLookup idleFallback Config.default.invalidCmd = some 15 :=
  ⟨⟨idleH1_inv, idleFallback_inv, fullFrame_inv, midPayload_inv⟩, by decide, by decide, ⟨_, rfl, rfl⟩, by decide,
    fun h => absurd h (by decide), by decide, by decide, by decide, by decide, by decide, by decide, by decide⟩
/-- Two states that differ in the byte at index 1, which V22's frame has not written. -/
theorem test_witness_StaleBufferBytesAreUnobservable :
    midPayload.Inv ∧ State.Inv { midPayload with rb := [(0, 0xAA#8), (1, 0x77#8)] }
    ∧ midPayload.agreesUpToStaleBytes { midPayload with rb := [(0, 0xAA#8), (1, 0x77#8)] }
    ∧ midPayload ≠ { midPayload with rb := [(0, 0xAA#8), (1, 0x77#8)] } :=
  ⟨midPayload_inv, { midPayload_inv with rb_wf := by decide, rb_index := by decide }, ⟨rfl, by decide⟩, by decide⟩

end Sys2Proof.Tests
end

/-! ### Scope: the helpers, and which configurations are built (00_scope.md R10, R16) -/

namespace Sys2Proof.Proofs

open Sys2Proof Sys2Proof.Machine Sys2Proof.Laws

/-- `UPPER` moves the lower-case letters down by 0x20, without a borrow. -/
theorem toNat_fold_upper {c : Byte} (hlo : 0x61 ≤ c.toNat) (hhi : c.toNat ≤ 0x7A) :
    (fold .upper c).toNat = c.toNat - 0x20 := by
  have hle : 0x20#8 ≤ c := by bv_omega
  simp only [fold, hlo, hhi, and_self, if_true]
  exact BitVec.toNat_sub_of_le hle

theorem fold_upper_of_not_lower {c : Byte} (h : c.toNat < 0x61 ∨ 0x7A < c.toNat) : fold .upper c = c :=
  if_neg (by omega)

/-- `LOWER` moves the upper-case letters up by 0x20, without a carry. -/
theorem toNat_fold_lower {c : Byte} (hlo : 0x41 ≤ c.toNat) (hhi : c.toNat ≤ 0x5A) :
    (fold .lower c).toNat = c.toNat + 0x20 := by
  have hlt : c.toNat + (0x20#8).toNat < 2 ^ 8 := by simp; omega
  simp only [fold, hlo, hhi, and_self, if_true]
  exact BitVec.toNat_add_of_lt hlt

theorem fold_lower_of_not_upper {c : Byte} (h : c.toNat < 0x41 ∨ 0x5A < c.toNat) : fold .lower c = c :=
  if_neg (by omega)

/-- Settles O9: `ClearFrame` and `cmdbytes` are their own equations; `fold` splits on the range of the letters it moves. -/
theorem helpersFollowTheirDefinitions : Obligations.HelpersFollowTheirDefinitions :=
  ⟨fun _ => rfl, fun _ => toNat_fold_upper, fun _ => fold_upper_of_not_lower, fun _ => toNat_fold_lower,
    fun _ => fold_lower_of_not_upper, fun _ => ⟨rfl, rfl⟩⟩

theorem powerOn_of_wf {cfg : Config} (h : cfg.wf = true) : State.powerOn cfg = .next (State.resetWith cfg) := if_pos h

theorem powerOn_of_not_wf {cfg : Config} (h : ¬ cfg.wf = true) : State.powerOn cfg = .refused .illFormedConfig :=
  if_neg h

/-- Settles O15: each constraint of R10 is one that a well-formed configuration meets (`config_wf`), so breaking one makes
`powerOn` refuse; and R9's ranges with R10's constraints are all that `Config.wf` asks for. -/
theorem illFormedConfigurationIsNotBuilt : Obligations.IllFormedConfigurationIsNotBuilt := by
  refine ⟨fun cfg hbad => powerOn_of_not_wf fun hwf => ?_,
    fun cfg hstx hcap hcap' hpay hcmd hclock htx hno hinv => powerOn_of_wf ?_⟩
  · obtain ⟨hstx, hcap, hcap', hpay, hcmd, -⟩ := config_wf hwf
    obtain h | h | h | h | h := hbad
    · exact hstx h
    · omega
    · omega
    · omega
    · exact hcmd h
  · simp [Config.wf, hstx, hcap, hcap', hpay, hcmd, hclock, htx, hno, hinv]

end Sys2Proof.Proofs

/-! ### The reset values (10_state.md R32) -/

namespace Sys2Proof.Proofs

open Sys2Proof Sys2Proof.Machine Sys2Proof.Laws

theorem regLookup_eq_none_of_reg_nil {s : State} (h : s.reg = []) (id : CmdId) : regLookup s id = none := by
  rw [regLookup, h, Table.lookup]

theorem statusWord_of_not_tooLarge {s : State} (h : s.tooLarge = false) : statusWord s = 0x00#8 := by
  rw [statusWord, h]
  rfl

/-- 43_control.md R100: RESET always succeeds; what it leaves alone is what `s` held. -/
theorem exec_reset (s : State) :
    exec .reset s = .next { s with
      st := .awaitingStart, cmd := s.cfg.noCmd, cmdIdx := 0#1, len := 0#8, cnt := 0#8, lastT := 0, tooLarge := false,
      reg := [], inHandler := false, rb := (forgetRb s).rb, free := (forgetRb s).free } := rfl

/-- Settles O14: power-on is the table by definition, at the default instance of notes/assumptions/17.md as at any other;
`exec_reset` gives RESET's whole next state. In both, STATUS and the registry are read off `too_large` and `REG`. -/
theorem resetValuesAreThoseOfTheTable : Obligations.ResetValuesAreThoseOfTheTable := by
  refine ⟨rfl, fun cfg => ⟨rfl, rfl, rfl, rfl, rfl, rfl, rfl, rfl, statusWord_of_not_tooLarge rfl,
    regLookup_eq_none_of_reg_nil rfl, rfl, rfl, ?_⟩⟩
  rintro s rfl
  exact ⟨_, exec_reset s, rfl, rfl, rfl, rfl, rfl, rfl, rfl, statusWord_of_not_tooLarge rfl,
    regLookup_eq_none_of_reg_nil rfl, rfl, rfl⟩

end Sys2Proof.Proofs

/-! ### The primitives of the receive buffer and of the registry (20_memory.md R35 to R37) -/

namespace Sys2Proof.Proofs

open Sys2Proof Sys2Proof.Machine Sys2Proof.Laws

theorem memWrite_of_ge {a : Nat} {s : State} (v : Byte) (h : s.cfg.cap ≤ a) :
    memWrite a v s = .fault (.bufferIndex a) := if_neg (by omega)

/-- Settles O10: an access inside the buffer is an update or a read of its list of cells, where a read after a write is
`read_write_same` at the written index and `read_write_other` at any other; an access outside it faults. -/
theorem bufferPrimitivesReadWhatWasWritten : Obligations.BufferPrimitivesReadWhatWasWritten := by
  refine ⟨fun s a v ha => ?write, fun _ _ v => memWrite_of_ge v, fun _ _ _ => memRead_of_le, fun _ _ _ => memRead_of_gt⟩
  case write =>
    exact ⟨_, memWrite_of_lt v ha, read_write_same s.rb a v, fun _ hne => read_write_other s.rb v hne, rfl⟩

/-- Settles O11: distinct identifiers have distinct keys (`regKey_injective`), so `regWrite` changes the entry of `id` and no
other; it is an update of `REG` alone by definition. -/
theorem registryPrimitivesFindWhatWasWritten : Obligations.RegistryPrimitivesFindWhatWasWritten :=
  fun s id h => ⟨regLookup_regWrite_same s id h, fun _ hne => regLookup_regWrite_other s h hne, rfl⟩

end Sys2Proof.Proofs

/-! ### The fields of a wire frame (30_encoding.md R52, R53) -/

namespace Sys2Proof.Proofs

open Sys2Proof Sys2Proof.Machine Sys2Proof.Laws

theorem length_frame (cfg : Config) (id : CmdId) (p : List Byte) :
    (frame cfg id p).length = 3 + idSize cfg.cmdWidth + p.length := by
  simp [frame]
  omega

theorem getElem?_frame_zero (cfg : Config) (id : CmdId) (p : List Byte) : (frame cfg id p)[0]? = some cfg.stx := by
  simp [frame]

/-- The bytes after STX: the command, and then the frame's other fields. -/
theorem getElem?_frame_succ (cfg : Config) (id : CmdId) (p : List Byte) (k : Nat) :
    (frame cfg id p)[1 + k]? = (cmdbytes cfg.cmdWidth id ++ BitVec.ofNat 8 p.length :: (p ++ [cfg.etx]))[k]? := by
  simp [frame, Nat.add_comm 1 k]

theorem getElem?_frame_one (cfg : Config) (id : CmdId) (p : List Byte) : (frame cfg id p)[1]? = some id.first := by
  rw [getElem?_frame_succ cfg id p 0]
  cases cfg.cmdWidth <;> rfl

theorem getElem?_frame_two {cfg : Config} (h : cfg.cmdWidth = .two) (id : CmdId) (p : List Byte) :
    (frame cfg id p)[2]? = some id.second := by
  rw [getElem?_frame_succ cfg id p 1, h]
  rfl

/-- The bytes after the command: LEN, the payload and ETX. -/
theorem getElem?_frame_after_cmd (cfg : Config) (id : CmdId) (p : List Byte) (k : Nat) :
    (frame cfg id p)[1 + idSize cfg.cmdWidth + k]? = (BitVec.ofNat 8 p.length :: (p ++ [cfg.etx]))[k]? := by
  rw [Nat.add_assoc, getElem?_frame_succ, List.getElem?_append_right (by simp), length_cmdbytes, Nat.add_sub_cancel_left]

/-- The bytes after LEN: the payload and ETX. -/
theorem getElem?_frame_after_len (cfg : Config) (id : CmdId) (p : List Byte) (k : Nat) :
    (frame cfg id p)[2 + idSize cfg.cmdWidth + k]? = (p ++ [cfg.etx])[k]? := by
  rw [show 2 + idSize cfg.cmdWidth + k = 1 + idSize cfg.cmdWidth + (k + 1) by omega, getElem?_frame_after_cmd,
    List.getElem?_cons_succ]

/-- Settles O8: `w` is the size of the identifier, and each field's offset is the end of the field before it; a payload of at
most 255 bytes has its length in the LEN byte. -/
theorem wireFrameHasTheFieldOffsets : Obligations.WireFrameHasTheFieldOffsets := by
  intro cfg id p w hp hwidth
  have hw : w = idSize cfg.cmdWidth := by obtain ⟨hc, rfl⟩ | ⟨hc, rfl⟩ := hwidth <;> rw [hc] <;> rfl
  have htwo : w = 2 → cfg.cmdWidth = .two := by
    rintro rfl
    simpa using hwidth
  subst hw
  refine ⟨rfl, length_frame cfg id p, getElem?_frame_zero cfg id p, getElem?_frame_one cfg id p,
    fun h => getElem?_frame_two (htwo h) id p,
    ⟨BitVec.ofNat 8 p.length, getElem?_frame_after_cmd cfg id p 0, Nat.mod_eq_of_lt (by omega)⟩,
    fun k hk => ?payload, ?etx⟩
  case payload => rw [getElem?_frame_after_len, List.getElem?_append_left hk]
  case etx => rw [getElem?_frame_after_len, List.getElem?_concat_length]

end Sys2Proof.Proofs

/-! ### FEED, byte rule by byte rule (40_parser.md R71 to R79) -/

namespace Sys2Proof.Proofs

open Sys2Proof Sys2Proof.Machine Sys2Proof.Laws

/-- An admitted FEED in time makes the move of its byte, from the state with the clock sample written (R70). -/
theorem exec_feed_of_move {c : Byte} {now : Nat} {s t : State} (h : s.takesByteInTime now)
    (hm : ParserMove c (stamp now s) t) : exec (.feed c now) s = .next t :=
  (execFeed_in_time h).trans (parseByte_of_move hm)

/-- A late byte is moved on from the discarded frame (R69). -/
theorem exec_feed_of_move_stale {c : Byte} {now : Nat} {s t : State} (hh : s.inHandler = false) (hs : isStale now s = true)
    (hm : ParserMove c (stamp now (setSt .awaitingStart (clearFrame s))) t) : exec (.feed c now) s = .next t := by
  rw [← staleReset_of_stale hs] at hm
  exact (execFeed_admitted c now hh).trans (parseByte_of_move hm)

theorem takesByteInTime_of_awaitingStart {s : State} (now : Nat) (hh : s.inHandler = false) (hs : s.st = .awaitingStart) :
    s.takesByteInTime now := ⟨hh, not_stale_of_awaitingStart now hs⟩

/-- Settles O18: STX is the move `start` and any other byte the move `ignore`; the rows are these updates by definition. -/
theorem awaitingStartWaitsForStx : Obligations.AwaitingStartWaitsForStx := by
  refine ⟨fun s c now hh hs => ?_, fun _ => rfl, fun _ _ => rfl⟩
  have hin := takesByteInTime_of_awaitingStart now hh hs
  exact ⟨fun hc => exec_feed_of_move hin (.start hs hc), fun hc => exec_feed_of_move hin (.ignore hs hc)⟩

/-- Settles O19: the move `cmdByte`. -/
theorem commandByteIsStoredAsReceived : Obligations.CommandByteIsStoredAsReceived :=
  ⟨fun _ _ _ hin hw hs => exec_feed_of_move hin (.cmdByte hs hw), fun _ _ => rfl⟩

theorem execFeedCmdChar_first {s : State} (c : Byte) (h : s.cmdIdx = 0#1) :
    execFeedCmdChar c s = .next (setCmdFirst (fold s.cfg.caseFold c) s) := if_pos h

theorem execFeedCmdChar_second {s : State} (c : Byte) (h : s.cmdIdx = 1#1) :
    execFeedCmdChar c s = .next (setSt .awaitingLength (setCmdSecond (fold s.cfg.caseFold c) s)) :=
  if_neg (by simp [h])

/-- Settles O20: `cmd_idx` selects the move `cmdFirst` or `cmdSecond`, and the row's branch likewise. -/
theorem commandCharactersAreFoldedInOrder : Obligations.CommandCharactersAreFoldedInOrder :=
  ⟨fun _ _ _ hin hw hs =>
      ⟨fun hi => exec_feed_of_move hin (.cmdFirst hs hw hi), fun hi => exec_feed_of_move hin (.cmdSecond hs hw hi)⟩,
    fun _ c => ⟨execFeedCmdChar_first c, execFeedCmdChar_second c⟩, rfl⟩

/-- Settles O21: the move `lenZero`. -/
theorem zeroLengthSkipsThePayload : Obligations.ZeroLengthSkipsThePayload :=
  ⟨fun _ _ hin hs => exec_feed_of_move hin (.lenZero hs rfl), fun _ => rfl⟩

theorem execFeedLenTooLarge_clamp {s : State} (c : Byte) (h : s.cfg.lenPolicy = .clamp) :
    execFeedLenTooLarge c s =
      .next (setSt .awaitingPayload (setLen (capByte s.cfg) (emit (.tooLarge c) (setTooLarge s)))) := by
  rw [execFeedLenTooLarge, h]

theorem execFeedLenTooLarge_reject {s : State} (c : Byte) (h : s.cfg.lenPolicy = .reject) :
    execFeedLenTooLarge c s = .next (setSt .awaitingStart (clearFrame (emit (.tooLarge c) (setTooLarge s)))) := by
  rw [execFeedLenTooLarge, h]

/-- Settles O22: a byte up to CAP is the move `lenStored`; above it LEN_POLICY selects `lenClamped` or `lenRejected`, and
the branch of the row LEN_TOO_LARGE. -/
theorem lengthIsStoredClampedOrRejected : Obligations.LengthIsStoredClampedOrRejected :=
  ⟨fun _ _ _ hin hs hc =>
      ⟨fun hl => exec_feed_of_move hin (.lenStored hs hc hl), fun hl hp => exec_feed_of_move hin (.lenClamped hs hl hp),
        fun hl hp => exec_feed_of_move hin (.lenRejected hs hl hp)⟩,
    fun _ c => ⟨rfl, rfl, execFeedLenTooLarge_clamp c, execFeedLenTooLarge_reject c⟩, rfl⟩

theorem execFeedPayloadByte_of_ge {s : State} (c : Byte) (h : s.cfg.cap ≤ s.cnt.toNat) :
    execFeedPayloadByte c s = .fault (.bufferIndex s.cnt.toNat) := by
  rw [execFeedPayloadByte, memWrite_of_ge c h, andThen_fault]

/-- Settles O23: the move `payload` and its row write RB at `cnt` alone, where reads after a write are `read_write_same` and
`read_write_other`; outside the buffer the write faults. -/
theorem payloadByteIsAppended : Obligations.PayloadByteIsAppended := by
  refine ⟨fun s c now hin hs hl => ?feed, fun s c hl => ?row, fun _ c hl => execFeedPayloadByte_of_ge c hl⟩
  case feed =>
    exact ⟨_, exec_feed_of_move hin (.payload hs hl), read_write_same s.rb _ c, fun _ => read_write_other s.rb c, rfl⟩
  case row =>
    exact ⟨_, execFeedPayloadByte_of_lt hl, read_write_same s.rb _ c, fun _ => read_write_other s.rb c, rfl⟩

/-- Settles O25: the move `resync`; as STX is not ETX, it does not end the frame. -/
theorem stxInAwaitingEndRestartsSilently : Obligations.StxInAwaitingEndRestartsSilently :=
  ⟨fun _ _ hin hs hne => exec_feed_of_move hin (.resync hs hne rfl), fun _ => rfl⟩

/-- Settles O26: the move `abort`. -/
theorem otherByteInAwaitingEndAborts : Obligations.OtherByteInAwaitingEndAborts :=
  ⟨fun _ _ _ hin hs he hc => exec_feed_of_move hin (.abort hs he hc), fun _ _ => rfl⟩

/-- Settles O27: admission comes before everything else a FEED does. -/
theorem feedDuringHandlerIsRefused : Obligations.FeedDuringHandlerIsRefused :=
  fun _ c now hh => execFeed_in_handler c now hh

end Sys2Proof.Proofs

/-! ### The clock: elapsed time, staleness and the timestamp (40_parser.md R68 to R70) -/

namespace Sys2Proof.Proofs

open Sys2Proof Sys2Proof.Machine Sys2Proof.Laws

theorem subMod_lt (w a b : Nat) : subMod w a b < 2 ^ w := Nat.mod_lt _ (Nat.two_pow_pos w)

theorem subMod_of_le {w a b : Nat} (ha : a < 2 ^ w) (h : b ≤ a) : subMod w a b = a - b := by
  rw [subMod, Nat.mod_eq_of_lt (show b < 2 ^ w by omega), show a + (2 ^ w - b) = a - b + 2 ^ w by omega,
    Nat.add_mod_right, Nat.mod_eq_of_lt (by omega)]

/-- The subtraction measures across the wrap. -/
theorem subMod_of_lt {w a b : Nat} (hb : b < 2 ^ w) (h : a < b) : subMod w a b = 2 ^ w - b + a := by
  rw [subMod, Nat.mod_eq_of_lt hb, Nat.mod_eq_of_lt (by omega), Nat.add_comm]

/-- Settles O28: elapsed time is `subMod` in CLOCK_WIDTH bits. -/
theorem elapsedTimeWrapsOnce : Obligations.ElapsedTimeWrapsOnce :=
  fun _ _ hlast hnow => ⟨subMod_of_le hnow, subMod_of_lt hlast, subMod_lt _ _ _⟩

theorem isStale_eq_true_iff {now : Nat} {s : State} :
    isStale now s = true ↔ s.cfg.tStale < elapsed now s ∧ s.st ≠ .awaitingStart := by
  simp [isStale]

/-- Settles O29: a late byte makes its move (`start` or `ignore`) from the discarded frame; the threshold is that of
`isStale`. -/
theorem staleFrameIsDiscardedBeforeTheByte : Obligations.StaleFrameIsDiscardedBeforeTheByte := by
  refine ⟨fun s c now hh hs hlate => ?late, fun s now hnot => ?inTime⟩
  case late =>
    have hstale := isStale_eq_true_iff.2 ⟨hlate, hs⟩
    exact ⟨fun hc => exec_feed_of_move_stale hh hstale (.start rfl hc),
      fun hc => exec_feed_of_move_stale hh hstale (.ignore rfl hc)⟩
  case inTime =>
    rw [← Bool.not_eq_true, isStale_eq_true_iff]
    rintro ⟨hlate, hs⟩
    obtain h | h := hnot
    · omega
    · exact hs h

/-- No byte rule writes `last_t`. -/
theorem lastT_of_move {c : Byte} {s t : State} (hm : ParserMove c s t) : t.lastT = s.lastT := by
  cases hm with
  | etx hs hc u hu => rw [setSt_lastT, clearFrame_lastT, execDispatch_leaves hu]
  | _ => rfl

/-- Settles O30: a FEED is refused, or it moves on from a state in which the clock sample is already written. -/
theorem everyAdmittedFeedStampsTheClock : Obligations.EveryAdmittedFeedStampsTheClock := by
  intro s t c now h
  obtain ⟨hh, rfl⟩ | ⟨hh, -, hm⟩ | ⟨hh, -, hm⟩ := execFeed_cases h
  · simp [hh]
  · simp [hh, lastT_of_move hm]
  · simp [hh, lastT_of_move hm]

end Sys2Proof.Proofs

/-! ### DISPATCH happens at ETX and nowhere else (40_parser.md R77) -/

namespace Sys2Proof.Proofs

open Sys2Proof Sys2Proof.Machine Sys2Proof.Laws

/-- DISPATCH and then the clear: a frame that fits the buffer ends by both. -/
theorem execDispatch_then_clear {s : State} (h : s.len.toNat ≤ s.cfg.cap) :
    ∃ u, execDispatch s.cmd s.len s = .next u
      ∧ execFeedEnd s =
        .next { u with cmd := s.cfg.noCmd, cmdIdx := 0#1, len := 0#8, cnt := 0#8, st := .awaitingStart } := by
  obtain ⟨u, hu⟩ : ∃ u, execDispatch s.cmd s.len s = .next u := by
    rw [execDispatch_of_le h]
    split
    · exact ⟨_, rfl⟩
    · split <;> exact ⟨_, rfl⟩
  have hcfg : u.cfg = s.cfg := by rw [execDispatch_leaves hu]
  refine ⟨u, hu, ?_⟩
  rw [execFeedEnd, hu, andThen_next, ← hcfg]
  rfl

theorem rbBytes_from_zero (s : State) (n : Nat) : rbBytes s 0 n = (List.range n).map (rbByte s) := by
  simp [rbBytes]

/-- The event of a DISPATCH carries its operands and the first bytes of RB (41_dispatch.md R85, R86). -/
theorem execDispatch_event {cmd cmd' : CmdId} {n n' : Byte} {s u : State} {kind : DispatchKind} {h : HandlerId}
    {p : List Byte} (hu : execDispatch cmd' n' s = .next u) (he : u.trace = s.trace ++ [.dispatch kind h cmd n p]) :
    cmd = cmd' ∧ n = n' ∧ p = rbBytes s 0 n'.toNat ∧ u.inHandler = true := by
  obtain ⟨-, ⟨f, -, rfl⟩ | ⟨f, -, -, rfl⟩ | ⟨-, -, rfl⟩⟩ := execDispatch_cases hu
  · obtain ⟨-, -, rfl, rfl, rfl⟩ := Event.dispatch.inj (List.singleton_inj.1 (List.append_cancel_left he))
    exact ⟨rfl, rfl, rfl, rfl⟩
  · obtain ⟨-, -, rfl, rfl, rfl⟩ := Event.dispatch.inj (List.singleton_inj.1 (List.append_cancel_left he))
    exact ⟨rfl, rfl, rfl, rfl⟩
  · simp at he

/-- Of the parser's moves only `etx` emits a Dispatch. -/
theorem etx_of_move_dispatch {c : Byte} {s t : State} {kind : DispatchKind} {h : HandlerId} {cmd : CmdId} {n : Byte}
    {p : List Byte} (hm : ParserMove c s t) (he : t.trace = s.trace ++ [.dispatch kind h cmd n p]) :
    c = s.cfg.etx ∧ s.st = .awaitingEnd ∧ cmd = s.cmd ∧ n = s.len ∧ p = rbBytes s 0 s.len.toNat
      ∧ t.st = .awaitingStart ∧ t.inHandler = true := by
  cases hm with
  | etx hs hc u hu =>
    obtain ⟨hcmd, hn, hp, hh⟩ := execDispatch_event hu he
    exact ⟨hc, hs, hcmd, hn, hp, rfl, hh⟩
  | _ => simp at he

/-- A host operation other than FEED leaves the trace or adds a TxFrame to it (10_state.md R30). -/
theorem exec_trace_of_not_feed {i : Instr} {s t : State} (hi : i.isRecord = true) (hf : ∀ c now, i ≠ .feed c now)
    (h : exec i s = .next t) : t.trace = s.trace ∨ ∃ bytes, t.trace = s.trace ++ [.txFrame bytes] := by
  cases i with
  | feed c now => exact absurd rfl (hf c now)
  | register id f =>
    obtain ⟨-, rfl⟩ | ⟨-, rfl⟩ := execRegister_cases h
    · exact .inl rfl
    · exact .inl rfl
  | send id n payload =>
    obtain ⟨-, rfl⟩ | ⟨-, rfl⟩ := execSend_cases h
    · exact .inl rfl
    · exact .inr ⟨_, rfl⟩
  | handlerReturn =>
    obtain ⟨-, rfl⟩ | ⟨-, rfl⟩ := execHandlerReturn_cases h
    · exact .inl rfl
    · exact .inl rfl
  | reset | statusRead | reserved110 | reserved111 =>
    cases h
    exact .inl rfl
  | _ => cases hi

/-- A host operation that emits a Dispatch is a FEED. -/
theorem feed_of_exec_dispatch {i : Instr} {s t : State} {kind : DispatchKind} {h : HandlerId} {cmd : CmdId} {n : Byte}
    {p : List Byte} (hi : i.isRecord = true) (ht : exec i s = .next t)
    (he : t.trace = s.trace ++ [.dispatch kind h cmd n p]) : ∃ c now, i = .feed c now := by
  by_contra! hf
  obtain hsame | ⟨bytes, hsent⟩ := exec_trace_of_not_feed hi hf ht
  · simp [hsame] at he
  · simp [hsent] at he

/-- Settles O24: a frame that fits ends by `execDispatch_then_clear`. Conversely an emitted Dispatch comes from a FEED, which
can have made only the move `etx`: a refused one emits nothing, and a stale one moves on from `AwaitingStart`. -/
theorem onlyEtxDispatchesTheFrame : Obligations.OnlyEtxDispatchesTheFrame := by
  refine ⟨fun s now hin hs hl => ?feed, fun _ hl => execDispatch_then_clear hl, fun i s t kind h cmd n p hi ht he => ?only⟩
  case feed =>
    obtain ⟨u, hu, hend⟩ := execDispatch_then_clear (s := stamp now s) hl
    exact ⟨u, hu, (execFeed_awaitingEnd s.cfg.etx hin hs).trans ((if_pos rfl).trans hend)⟩
  case only =>
    obtain ⟨c, now, rfl⟩ := feed_of_exec_dispatch hi ht he
    obtain ⟨-, rfl⟩ | ⟨hh, hstale, hm⟩ | ⟨-, -, hm⟩ := execFeed_cases ht
    · simp at he
    · obtain ⟨rfl, hs, hcmd, hn, hp, hst, hrun⟩ := etx_of_move_dispatch hm he
      exact ⟨⟨now, rfl, hh, hstale⟩, hs, hcmd, hn, hp.trans (rbBytes_from_zero s _), hst, hrun⟩
    · obtain ⟨-, hs, -⟩ := etx_of_move_dispatch hm he
      cases hs

end Sys2Proof.Proofs

/-! ### DISPATCH, REGISTER and HANDLER_RETURN, outcome by outcome (41_dispatch.md R85 to R87, R90, R92) -/

namespace Sys2Proof.Proofs

open Sys2Proof Sys2Proof.Machine Sys2Proof.Laws

theorem execDispatch_of_exact {cmd : CmdId} {n : Byte} {s : State} {h : HandlerId} (hn : n.toNat ≤ s.cfg.cap)
    (hl : regLookup s cmd = some h) :
    execDispatch cmd n s = .next (enterHandler .exact h cmd n (rbBytes s 0 n.toNat) s) := by
  rw [execDispatch_of_le hn, hl]

theorem execDispatch_of_fallback {cmd : CmdId} {n : Byte} {s : State} {f : HandlerId} (hn : n.toNat ≤ s.cfg.cap)
    (hl : regLookup s cmd = none) (hf : regLookup s s.cfg.invalidCmd = some f) :
    execDispatch cmd n s = .next (enterHandler .fallback f cmd n (rbBytes s 0 n.toNat) s) := by
  rw [execDispatch_of_le hn, hl, hf]

theorem execDispatch_of_unregistered {cmd : CmdId} {n : Byte} {s : State} (hn : n.toNat ≤ s.cfg.cap)
    (hl : regLookup s cmd = none) (hf : regLookup s s.cfg.invalidCmd = none) :
    execDispatch cmd n s = .next s := by
  rw [execDispatch_of_le hn, hl, hf]

/-- Settles O33: the exact match enters the handler, and the `n` bytes read at index 0 are RB[0..n). -/
theorem exactMatchInvokesItsHandler : Obligations.ExactMatchInvokesItsHandler := by
  intro s cmd n h hn hl
  rw [← rbBytes_from_zero]
  exact execDispatch_of_exact hn hl

/-- Settles O34: the fallback handler is entered with the operand `cmd` as it stands. -/
theorem fallbackHandlesTheUnregistered : Obligations.FallbackHandlesTheUnregistered := by
  intro s cmd n f hn hl hf
  rw [← rbBytes_from_zero]
  exact execDispatch_of_fallback hn hl hf

/-- Settles O35: both lookups fail, and DISPATCH ends in the state it began in. -/
theorem unregisteredFrameIsDropped : Obligations.UnregisteredFrameIsDropped :=
  fun _ _ _ => execDispatch_of_unregistered

theorem execRegister_of_idle {s : State} (id : CmdId) (h : HandlerId) (hh : s.inHandler = false) :
    execRegister id h s = .next (regWrite id h s) := if_neg (by simp [hh])

theorem execRegister_in_handler {s : State} (id : CmdId) (h : HandlerId) (hh : s.inHandler = true) :
    execRegister id h s = .next (refuse .registerDuringHandler s) := if_pos hh

/-- Settles O37: an admitted REGISTER is one `regWrite`, which changes the entry of `id` and no other
(`registryPrimitivesFindWhatWasWritten`); while a handler runs, REGISTER is `refuse`. -/
theorem registerInstallsOrOverwrites : Obligations.RegisterInstallsOrOverwrites :=
  ⟨fun s id h hh => ⟨_, execRegister_of_idle id h hh, registryPrimitivesFindWhatWasWritten s id h⟩,
    fun _ => execRegister_in_handler⟩

theorem execHandlerReturn_in_handler {s : State} (hh : s.inHandler = true) :
    execHandlerReturn s = .next (leaveHandler s) := if_pos hh

theorem execHandlerReturn_of_idle {s : State} (hh : s.inHandler = false) :
    execHandlerReturn s = .next (refuse .returnWithoutHandler s) := if_neg (by simp [hh])

/-- Settles O40: HANDLER_RETURN splits on `in_handler`: set, it is `leaveHandler`; clear, it is `refuse`. -/
theorem handlerReturnClearsOnlyTheHandshake : Obligations.HandlerReturnClearsOnlyTheHandshake :=
  ⟨fun _ => execHandlerReturn_in_handler, fun _ => execHandlerReturn_of_idle⟩

end Sys2Proof.Proofs

/-! ### SEND, outcome by outcome (42_encoder.md R93 to R98) -/

namespace Sys2Proof.Proofs

open Sys2Proof Sys2Proof.Machine Sys2Proof.Laws

theorem execSend_of_le {id : CmdId} {n : Nat} {payload : Option (List Byte)} {s : State}
    (h : sendLength s.cfg n payload ≤ (suppliedBytes payload).length) :
    execSend id n payload s =
      .next (emit (.txFrame (wireBytes s.cfg id (sendLength s.cfg n payload) (suppliedBytes payload))) s) :=
  if_neg (by omega)

theorem execSend_of_short {id : CmdId} {n : Nat} {payload : Option (List Byte)} {s : State}
    (h : (suppliedBytes payload).length < sendLength s.cfg n payload) :
    execSend id n payload s = .next (refuse .shortPayload s) := if_pos h

/-- Of a long enough sequence SEND emits the frame of its first bytes. -/
theorem wireBytes_eq_frame {len : Nat} {p : List Byte} (h : len ≤ p.length) (cfg : Config) (id : CmdId) :
    wireBytes cfg id len p = frame cfg id (p.take len) := by
  rw [wireBytes, frame, List.length_take_of_le h]

/-- Settles O41: without a payload the length is 0, which no sequence is shorter than. -/
theorem absentPayloadSendsLengthZero : Obligations.AbsentPayloadSendsLengthZero := by
  intro s id n
  have hwire : wireBytes s.cfg id 0 [] = [s.cfg.stx] ++ cmdbytes s.cfg.cmdWidth id ++ [0x00#8] ++ [s.cfg.etx] := by
    simp [wireBytes]
  rw [← hwire]
  exact execSend_of_le (payload := none) (Nat.zero_le _)

/-- Settles O42: the outcome is that of an admitted SEND, whose bytes are a frame (`wireBytes_eq_frame`) of known length
(`length_frame`); MAX_PAYLOAD_SIZE is at most 255, so LEN holds the length whole. -/
theorem sendEmitsTheClampedFrame : Obligations.SendEmitsTheClampedFrame := by
  intro s id n p hp
  refine ⟨execSend_of_le (payload := some p) hp, wireBytes_eq_frame hp s.cfg id, ?length, fun hwf => ?lenByte⟩
  case length =>
    rw [length_frame, List.length_take_of_le hp]
    cases s.cfg.cmdWidth <;> rfl
  case lenByte =>
    obtain ⟨-, -, -, hmax, -⟩ := config_wf hwf
    exact Nat.mod_eq_of_lt (by omega)

/-- Settles O43: SEND splits on whether the sequence is shorter than the clamped length. -/
theorem shortPayloadIsRefused : Obligations.ShortPayloadIsRefused :=
  fun _ _ _ p => ⟨execSend_of_short (payload := some p), fun h => ⟨_, execSend_of_le (payload := some p) h, rfl⟩⟩

end Sys2Proof.Proofs

/-! ### SEND commutes with the receive side (42_encoder.md R99, 20_memory.md R46) -/

namespace Sys2Proof.Proofs

open Sys2Proof Sys2Proof.Machine Sys2Proof.Laws

/-- The state with another history of events. -/
def withTrace (es : List Event) (s : State) : State := { s with trace := es }

/-- A step of the receive side: it keeps the configuration, adds only the events `new`, none of them a TxFrame, and takes
place in the same way whatever the events before it were. -/
structure ReceiveStep (R : State → State → Prop) (s t : State) (new : List Event) : Prop where
  cfg_eq : t.cfg = s.cfg
  trace_eq : t.trace = s.trace ++ new
  not_tx : ∀ e ∈ new, e.isTx = false
  any_trace : ∀ es, R (withTrace es s) (withTrace (es ++ new) t)

/-- A step that emits nothing. -/
theorem ReceiveStep.silent {R : State → State → Prop} {s t : State} (hc : t.cfg = s.cfg) (ht : t.trace = s.trace)
    (h : ∀ es, R (withTrace es s) (withTrace es t)) : ReceiveStep R s t [] where
  cfg_eq := hc
  trace_eq := by simp [ht]
  not_tx := by simp
  any_trace es := by simpa using h es

/-- DISPATCH reads nothing of the trace and emits at most one Dispatch. -/
theorem receiveStep_execDispatch {cmd : CmdId} {n : Byte} {s u : State} (h : execDispatch cmd n s = .next u) :
    ∃ new, ReceiveStep (fun a b => execDispatch cmd n a = .next b) s u new := by
  obtain ⟨hn, ⟨f, hl, rfl⟩ | ⟨f, hl, hf, rfl⟩ | ⟨hl, hf, rfl⟩⟩ := execDispatch_cases h
  · exact ⟨[_], rfl, rfl, by simp [Event.isTx], fun es => execDispatch_of_exact (s := withTrace es s) hn hl⟩
  · exact ⟨[_], rfl, rfl, by simp [Event.isTx], fun es => execDispatch_of_fallback (s := withTrace es s) hn hl hf⟩
  · exact ⟨[], .silent rfl rfl fun es => execDispatch_of_unregistered (s := withTrace es u) hn hl hf⟩

/-- No move of the parser reads the trace; a LEN byte above CAP and ETX may emit one event. -/
theorem receiveStep_of_move {c : Byte} {s t : State} (hm : ParserMove c s t) :
    ∃ new, ReceiveStep (ParserMove c) s t new := by
  cases hm with
  | start hs hc => exact ⟨[], .silent rfl rfl fun _ => .start hs hc⟩
  | ignore hs hc => exact ⟨[], .silent rfl rfl fun _ => .ignore hs hc⟩
  | cmdByte hs hw => exact ⟨[], .silent rfl rfl fun _ => .cmdByte hs hw⟩
  | cmdFirst hs hw hi => exact ⟨[], .silent rfl rfl fun _ => .cmdFirst hs hw hi⟩
  | cmdSecond hs hw hi => exact ⟨[], .silent rfl rfl fun _ => .cmdSecond hs hw hi⟩
  | lenZero hs hc => exact ⟨[], .silent rfl rfl fun _ => .lenZero hs hc⟩
  | lenStored hs hc hl => exact ⟨[], .silent rfl rfl fun _ => .lenStored hs hc hl⟩
  | lenClamped hs hl hp => exact ⟨[.tooLarge c], rfl, rfl, by simp [Event.isTx], fun _ => .lenClamped hs hl hp⟩
  | lenRejected hs hl hp => exact ⟨[.tooLarge c], rfl, rfl, by simp [Event.isTx], fun _ => .lenRejected hs hl hp⟩
  | payload hs hl => exact ⟨[], .silent rfl rfl fun _ => .payload hs hl⟩
  | etx hs hc u hu =>
    obtain ⟨new, hcfg, htr, htx, hany⟩ := receiveStep_execDispatch hu
    exact ⟨new, hcfg, htr, htx, fun es => .etx (s := withTrace es s) hs hc _ (hany es)⟩
  | resync hs he hc => exact ⟨[], .silent rfl rfl fun _ => .resync hs he hc⟩
  | abort hs he hc => exact ⟨[], .silent rfl rfl fun _ => .abort hs he hc⟩

/-- Every host operation but SEND is a step of the receive side. -/
theorem receiveStep_of_exec {i : Instr} {s t : State} (hi : i.isRecord = true) (hsend : ∀ id n p, i ≠ .send id n p)
    (h : exec i s = .next t) : ∃ new, ReceiveStep (fun a b => exec i a = .next b) s t new := by
  cases i with
  | feed c now =>
    obtain ⟨hh, rfl⟩ | ⟨hh, hstale, hm⟩ | ⟨hh, hstale, hm⟩ := execFeed_cases h
    · exact ⟨[], .silent rfl rfl fun es => execFeed_in_handler (s := withTrace es s) c now hh⟩
    · obtain ⟨new, hcfg, htr, htx, hany⟩ := receiveStep_of_move hm
      exact ⟨new, hcfg, htr, htx, fun es => exec_feed_of_move (s := withTrace es s) ⟨hh, hstale⟩ (hany es)⟩
    · obtain ⟨new, hcfg, htr, htx, hany⟩ := receiveStep_of_move hm
      exact ⟨new, hcfg, htr, htx, fun es => exec_feed_of_move_stale (s := withTrace es s) hh hstale (hany es)⟩
  | register id f =>
    obtain ⟨hh, rfl⟩ | ⟨hh, rfl⟩ := execRegister_cases h
    · exact ⟨[], .silent rfl rfl fun es => execRegister_in_handler (s := withTrace es s) id f hh⟩
    · exact ⟨[], .silent rfl rfl fun es => execRegister_of_idle (s := withTrace es s) id f hh⟩
  | send id n p => exact absurd rfl (hsend id n p)
  | handlerReturn =>
    obtain ⟨hh, rfl⟩ | ⟨hh, rfl⟩ := execHandlerReturn_cases h
    · exact ⟨[], .silent rfl rfl fun es => execHandlerReturn_in_handler (s := withTrace es s) hh⟩
    · exact ⟨[], .silent rfl rfl fun es => execHandlerReturn_of_idle (s := withTrace es s) hh⟩
  | reset | statusRead | reserved110 | reserved111 =>
    cases h
    exact ⟨[], .silent rfl rfl fun _ => rfl⟩
  | _ => cases hi

/-- 60_exceptions.md R109: an admitted SEND was given the bytes it needs. -/
theorem sendLength_le_of_admitted {id : CmdId} {n : Nat} {payload : Option (List Byte)} {s : State}
    (h : refusalOf (.send id n payload) s = none) : sendLength s.cfg n payload ≤ (suppliedBytes payload).length := by
  cases payload with
  | none => exact Nat.zero_le _
  | some p =>
    by_contra hshort
    have hlt : p.length < min n s.cfg.maxPayload := Nat.lt_of_not_le hshort
    rw [refusalOf, if_pos hlt] at h
    cases h

/-- Settles O44: SEND only adds its TxFrame to the trace, and the other operation is a step of the receive side
(`receiveStep_of_exec`), so it takes place alike before and after that event. In the two traces the TxFrame stands on
different sides of events of the other kind. -/
theorem sendCommutesWithTheReceiveSide : Obligations.SendCommutesWithTheReceiveSide := by
  intro s t i id n payload hi hsend hadmit ht
  have hlen := sendLength_le_of_admitted hadmit
  obtain ⟨new, hcfg, htr, htx, hany⟩ := receiveStep_of_exec hi hsend ht
  refine ⟨_, _, _, execSend_of_le hlen, hany _, execSend_of_le (hcfg ▸ hlen), rfl, ?tx, ?rx⟩
  case tx =>
    have hnone : new.filter Event.isTx = [] := by simpa using htx
    simp [State.txEvents, withTrace, htr, hcfg, hnone, List.filter_cons]
  case rx => simp [State.rxEvents, withTrace, htr, Event.isTx]

end Sys2Proof.Proofs

/-! ### A sent frame is received (42_encoder.md R99, 70_reset_and_hazards.md R134) -/

namespace Sys2Proof.Proofs

open Sys2Proof Sys2Proof.Machine Sys2Proof.Laws

theorem steady_cons_cons {cfg : Config} {t t' : Nat} {ts : List Nat} :
    steady cfg (t :: t' :: ts) = true ↔ subMod cfg.clockWidth t' t ≤ cfg.tStale ∧ steady cfg (t' :: ts) = true := by
  simp [steady]

theorem runOps_feeds_cons (c : Byte) (bs : List Byte) (now : Nat) (times : List Nat) (s : State) :
    runOps (feeds ((c :: bs).zip (now :: times))) s =
      andThen (exec (.feed c now) s) (runOps (feeds (bs.zip times))) := rfl

/-- No byte rule writes the configuration. -/
theorem cfg_of_move {c : Byte} {s t : State} (hm : ParserMove c s t) : t.cfg = s.cfg := by
  obtain ⟨_, hstep⟩ := receiveStep_of_move hm
  exact hstep.cfg_eq

/-- The bytes, fed to `s` at any steady pace that goes on from its last byte, end in a state with the property `F`. -/
def Delivers (bytes : List Byte) (F : State → Prop) (s : State) : Prop :=
  ∀ times : List Nat, times.length = bytes.length → steady s.cfg (s.lastT :: times) = true →
    ∃ t, runOps (feeds (bytes.zip times)) s = .next t ∧ F t

theorem delivers_nil {F : State → Prop} {s : State} (h : F s) : Delivers [] F s := fun _ _ _ => ⟨s, rfl, h⟩

/-- At a steady pace no byte is late, so each makes its move from the state the last one left. -/
theorem delivers_cons {c : Byte} {bs : List Byte} {F : State → Prop} {s : State} (hh : s.inHandler = false)
    (h : ∀ now, ∃ u, ParserMove c (stamp now s) u ∧ Delivers bs F u) : Delivers (c :: bs) F s := by
  rintro (_ | ⟨now, times⟩) hlen hsteady
  · cases hlen
  · obtain ⟨hgap, hsteady⟩ := steady_cons_cons.1 hsteady
    obtain ⟨u, hm, hu⟩ := h now
    have hin : isStale now s = false := by
      rw [← Bool.not_eq_true, isStale_eq_true_iff]
      exact fun hlate => absurd hgap (Nat.not_le.2 hlate.1)
    obtain ⟨t, ht, hF⟩ := hu times (Nat.succ.inj hlen) (by rw [lastT_of_move hm, cfg_of_move hm]; exact hsteady)
    exact ⟨t, by rw [runOps_feeds_cons, exec_feed_of_move ⟨hh, hin⟩ hm, andThen_next, ht], hF⟩

/-- The registry answers `id` with the handler `h`: its own, or the fallback's (41_dispatch.md R85, R86). -/
def Answers (s : State) (kind : DispatchKind) (h : HandlerId) (id : CmdId) : Prop :=
  (kind = .exact ∧ regLookup s id = some h)
    ∨ (kind = .fallback ∧ regLookup s id = none ∧ regLookup s s.cfg.invalidCmd = some h)

theorem execDispatch_of_answers {s : State} {kind : DispatchKind} {h : HandlerId} {id : CmdId} {n : Byte}
    (ha : Answers s kind h id) (hn : n.toNat ≤ s.cfg.cap) :
    execDispatch id n s = .next (enterHandler kind h id n (rbBytes s 0 n.toNat) s) := by
  obtain ⟨rfl, hl⟩ | ⟨rfl, hl, hf⟩ := ha
  · exact execDispatch_of_exact hn hl
  · exact execDispatch_of_fallback hn hl hf

/-- A frame ended in the event `e`, the only one since `s`: its handler runs, the parser is idle, and neither `too_large` nor
the refused mark has changed. -/
def Dispatched (e : Event) (s t : State) : Prop :=
  t.trace = s.trace ++ [e] ∧ t.st = .awaitingStart ∧ t.inHandler = true ∧ t.tooLarge = s.tooLarge ∧ t.refusals = s.refusals

/-- A frame is in progress: its length is known, and the bytes `q` of its payload are still to come. -/
structure AwaitsPayload (q : List Byte) (s : State) : Prop where
  idle : s.inHandler = false
  st_eq : s.st = if q = [] then .awaitingEnd else .awaitingPayload
  len_eq : s.len.toNat = s.cnt.toNat + q.length
  len_le : s.len.toNat ≤ s.cfg.cap

/-- What a payload byte leaves behind (40_parser.md R76). -/
def afterPayloadByte (c : Byte) (s : State) : State :=
  { s with rb := Memory.write s.rb s.cnt.toNat c, cnt := s.cnt + 1#8,
           st := if s.cnt + 1#8 = s.len then .awaitingEnd else .awaitingPayload }

theorem awaitsPayload_afterPayloadByte {c : Byte} {q : List Byte} {s : State} (h : AwaitsPayload (c :: q) s) :
    AwaitsPayload q (afterPayloadByte c s) := by
  obtain ⟨hh, -, hlen, hcap⟩ := h
  rw [List.length_cons] at hlen
  have hcnt : (s.cnt + 1#8).toNat = s.cnt.toNat + 1 := toNat_succ_of_lt (b := s.len) (by omega)
  have hlast : s.cnt + 1#8 = s.len ↔ q = [] := by
    rw [← BitVec.toNat_inj, ← List.length_eq_zero_iff]
    omega
  refine ⟨hh, by simp only [afterPayloadByte, hlast], ?_, hcap⟩
  show s.len.toNat = (s.cnt + 1#8).toNat + q.length
  omega

/-- The bytes received so far, one more of them (20_memory.md R35). -/
theorem rbBytes_afterPayloadByte {c : Byte} {s : State} (h : s.cnt.toNat < s.len.toNat) :
    rbBytes (afterPayloadByte c s) 0 (afterPayloadByte c s).cnt.toNat = rbBytes s 0 s.cnt.toNat ++ [c] := by
  have hlast : rbByte (afterPayloadByte c s) (0 + s.cnt.toNat) = c := by
    rw [Nat.zero_add]
    exact read_write_same s.rb _ c
  have hrest : rbBytes (afterPayloadByte c s) 0 s.cnt.toNat = rbBytes s 0 s.cnt.toNat :=
    rbBytes_congr fun k hk => read_write_other s.rb c (by omega)
  rw [show (afterPayloadByte c s).cnt.toNat = s.cnt.toNat + 1 from toNat_succ_of_lt h, rbBytes_succ, hlast, hrest]

/-- What the LEN byte of a payload `p` that fits the buffer leaves behind. -/
def afterLength (p : List Byte) (s : State) : State :=
  setSt (if p = [] then .awaitingEnd else .awaitingPayload) (setLen (BitVec.ofNat 8 p.length) s)

theorem parserMove_length {p : List Byte} {s : State} (hs : s.st = .awaitingLength)
    (hp : (BitVec.ofNat 8 p.length).toNat ≤ s.cfg.cap) (hlen : (BitVec.ofNat 8 p.length).toNat = p.length) :
    ParserMove (BitVec.ofNat 8 p.length) s (afterLength p s) := by
  rw [afterLength]
  split
  next hnil =>
    subst hnil
    exact .lenZero hs rfl
  next hsome =>
    refine .lenStored hs (fun hzero => hsome ?_) hp
    rw [← List.length_eq_zero_iff, ← hlen, hzero]
    rfl

section

variable {kind : DispatchKind} {h : HandlerId}

/-- ETX of a full frame dispatches it (40_parser.md R77). -/
theorem delivers_etx {s : State} (ha : Answers s kind h s.cmd) (hw : AwaitsPayload [] s) :
    Delivers [s.cfg.etx] (Dispatched (.dispatch kind h s.cmd s.len (rbBytes s 0 s.cnt.toNat)) s) s := by
  obtain ⟨hh, hs, hlen, hcap⟩ := hw
  have hfull : s.len.toNat = s.cnt.toNat := hlen
  rw [← hfull]
  refine delivers_cons hh fun now =>
    ⟨_, .etx (s := stamp now s) hs rfl _ (execDispatch_of_answers (s := stamp now s) ha hcap), ?_⟩
  exact delivers_nil ⟨rfl, rfl, rfl, rfl, rfl⟩

/-- The rest of the payload, and then ETX: what is dispatched is what was received before it and the rest. -/
theorem delivers_payload {q : List Byte} {s : State} (ha : Answers s kind h s.cmd) (hw : AwaitsPayload q s) :
    Delivers (q ++ [s.cfg.etx]) (Dispatched (.dispatch kind h s.cmd s.len (rbBytes s 0 s.cnt.toNat ++ q)) s) s := by
  induction q generalizing s with
  | nil =>
    rw [List.append_nil]
    exact delivers_etx ha hw
  | cons c q ih =>
    have hroom : s.cnt.toNat < s.len.toNat := by
      rw [hw.len_eq, List.length_cons]
      omega
    refine delivers_cons hw.idle fun now =>
      ⟨afterPayloadByte c (stamp now s), .payload hw.st_eq (lt_of_lt_of_le hroom hw.len_le), ?_⟩
    have hnext : AwaitsPayload q (afterPayloadByte c (stamp now s)) :=
      awaitsPayload_afterPayloadByte { hw with }
    have hrest := ih (s := afterPayloadByte c (stamp now s)) ha hnext
    rw [rbBytes_afterPayloadByte (s := stamp now s) hroom, List.append_assoc] at hrest
    exact hrest

/-- LEN, the payload and ETX (40_parser.md R74, R75). -/
theorem delivers_length {p : List Byte} {s : State} (ha : Answers s kind h s.cmd) (hh : s.inHandler = false)
    (hs : s.st = .awaitingLength) (hcnt : s.cnt = 0#8) (hp : p.length ≤ s.cfg.cap) (hcap : s.cfg.cap ≤ 255) :
    Delivers (BitVec.ofNat 8 p.length :: (p ++ [s.cfg.etx]))
      (Dispatched (.dispatch kind h s.cmd (BitVec.ofNat 8 p.length) p) s) s := by
  have hlen : (BitVec.ofNat 8 p.length).toNat = p.length := Nat.mod_eq_of_lt (by omega)
  refine delivers_cons hh fun now => ⟨afterLength p (stamp now s), parserMove_length hs (hlen.trans_le hp) hlen, ?_⟩
  have hzero : (afterLength p (stamp now s)).cnt = 0#8 := hcnt
  have hcount : (BitVec.ofNat 8 p.length).toNat = (0#8).toNat + p.length := by simpa using hlen
  have hnext : AwaitsPayload p (afterLength p (stamp now s)) :=
    ⟨hh, rfl, by rw [hzero]; exact hcount, hlen.trans_le hp⟩
  have hrest := delivers_payload (s := afterLength p (stamp now s)) ha hnext
  rw [hzero] at hrest
  exact hrest

/-- The identifier and the rest of the frame: at width 2 it arrives folded as it was (40_parser.md R72, R73). -/
theorem delivers_command {id : CmdId} {p : List Byte} {s : State} (ha : Answers s kind h id) (hh : s.inHandler = false)
    (hs : s.st = .awaitingCommand) (hidx : s.cmdIdx = 0#1) (hcnt : s.cnt = 0#8) (hfits : id.fits s.cfg.cmdWidth = true)
    (hfold : CmdId.folded s.cfg id) (hp : p.length ≤ s.cfg.cap) (hcap : s.cfg.cap ≤ 255) :
    Delivers (cmdbytes s.cfg.cmdWidth id ++ BitVec.ofNat 8 p.length :: (p ++ [s.cfg.etx]))
      (Dispatched (.dispatch kind h id (BitVec.ofNat 8 p.length) p) s) s := by
  obtain ⟨a, b⟩ := id
  cases hw : s.cfg.cmdWidth with
  | one =>
    obtain rfl : b = 0#8 := by simpa [CmdId.fits, hw] using hfits
    refine delivers_cons hh fun now => ⟨_, .cmdByte hs hw, ?_⟩
    exact delivers_length (s := setSt .awaitingLength (setCmd ⟨a, 0#8⟩ (stamp now s))) ha hh rfl hcnt hp hcap
  | two =>
    obtain ⟨hfirst, hsecond⟩ : fold s.cfg.caseFold a = a ∧ fold s.cfg.caseFold b = b := hfold hw
    refine delivers_cons hh fun now => ⟨_, .cmdFirst hs hw hidx, ?_⟩
    refine delivers_cons hh fun now' => ⟨_, .cmdSecond hs hw rfl, ?_⟩
    simp only [stamp_cfg, setCmdFirst_cfg, hfirst, hsecond]
    exact delivers_length
      (s := setSt .awaitingLength (setCmdSecond b (stamp now' (setCmdFirst a (stamp now s))))) ha hh rfl hcnt hp hcap

end

/-- STX starts a frame in `AwaitingStart`, in `AwaitingEnd` in time (a resynchronization), and after a staleness reset
(70_reset_and_hazards.md R134). -/
theorem exec_feed_stx {now : Nat} {s : State} (hne : s.cfg.stx ≠ s.cfg.etx) (hh : s.inHandler = false)
    (hs : s.st = .awaitingStart ∨ s.st = .awaitingEnd ∨ isStale now s = true) :
    exec (.feed s.cfg.stx now) s = .next (setSt .awaitingCommand (clearFrame (stamp now s))) := by
  cases hstale : isStale now s with
  | true => exact exec_feed_of_move_stale hh hstale (.start rfl rfl)
  | false =>
    obtain hs | hs | hs := hs
    · exact exec_feed_of_move ⟨hh, hstale⟩ (.start hs rfl)
    · exact exec_feed_of_move ⟨hh, hstale⟩ (.resync hs hne rfl)
    · rw [hstale] at hs
      cases hs

/-- What an admitted SEND emitted is the frame of the clamped payload (42_encoder.md R96). -/
theorem frame_of_exec_send {id : CmdId} {n : Nat} {payload : Option (List Byte)} {a a' : State} {bytes : List Byte}
    (h : exec (.send id n payload) a = .next a') (htr : a'.trace = a.trace ++ [.txFrame bytes]) :
    sendLength a.cfg n payload ≤ (suppliedBytes payload).length
      ∧ bytes = frame a.cfg id ((suppliedBytes payload).take (sendLength a.cfg n payload)) := by
  obtain ⟨-, rfl⟩ | ⟨hlen, rfl⟩ := execSend_cases h
  · simp at htr
  · simpa [hlen, eq_comm] using htr

/-- Settles O57: the sent bytes are a frame (`frame_of_exec_send`); its STX starts a frame in each of R134's states
(`exec_feed_stx`), and the bytes after it, none of them late, take the parser through the command, the length and the payload to
the DISPATCH (`delivers_command`). -/
theorem sentFramesAreReceived : Obligations.SentFramesAreReceived := by
  rintro s a a' id n payload bytes times h kind hi hh hs hcfg hsend htr hfits hfold hcap htimes - hsteady ha
  obtain ⟨hlen, rfl⟩ := frame_of_exec_send hsend htr
  rw [hcfg] at hlen htimes ⊢
  obtain ⟨hne, -, hcap', -⟩ := config_wf hi.cfg_wf
  have hp : ((suppliedBytes payload).take (sendLength s.cfg n payload)).length = sendLength s.cfg n payload :=
    List.length_take_of_le hlen
  generalize (suppliedBytes payload).take (sendLength s.cfg n payload) = p at hp htimes ⊢
  rw [← hp] at hcap ⊢
  obtain _ | ⟨now, times⟩ := times
  · simp [frame] at htimes
  have hstart := exec_feed_stx (now := now) hne hh (by simpa using hs)
  have hframe : frame s.cfg id p =
      s.cfg.stx :: (cmdbytes s.cfg.cmdWidth id ++ BitVec.ofNat 8 p.length :: (p ++ [s.cfg.etx])) := by simp [frame]
  rw [hframe] at htimes ⊢
  obtain ⟨t, ht, hF⟩ := delivers_command (s := setSt .awaitingCommand (clearFrame (stamp now s))) ha hh rfl rfl rfl hfits hfold
    hcap hcap' times (Nat.succ.inj htimes) hsteady
  rw [runOps_feeds_cons, hstart, andThen_next]
  exact ⟨t, ht, hF⟩

end Sys2Proof.Proofs

/-! ### RESET and STATUS_READ (43_control.md R100, R101) -/

namespace Sys2Proof.Proofs

open Sys2Proof Sys2Proof.Machine Sys2Proof.Laws

/-- Settles O45: `exec_reset` gives RESET's whole next state. Its registry is empty, and beyond what RESET leaves alone it is
the power-on state of the same configuration. -/
theorem resetRestoresTheResetValues : Obligations.ResetRestoresTheResetValues :=
  fun s => ⟨_, exec_reset s, regLookup_eq_none_of_reg_nil rfl, rfl, rfl⟩

/-- 10_state.md R27: the STATUS byte has only `too_large` in it. -/
theorem statusWord_eq_ite (s : State) : statusWord s = if s.tooLarge then 0x01#8 else 0x00#8 := by
  cases h : s.tooLarge with
  | false => exact statusWord_of_not_tooLarge h
  | true =>
    rw [statusWord, h]
    rfl

theorem exec_statusRead (s : State) : exec .statusRead s = .next { s with result := some (statusWord s) } := rfl

/-- Settles O46: STATUS_READ writes nothing but the result, which is the STATUS byte. -/
theorem statusReadReturnsTheStickyBit : Obligations.StatusReadReturnsTheStickyBit := by
  intro s
  rw [exec_statusRead, statusWord_eq_ite]

end Sys2Proof.Proofs

/-! ### The configuration is fixed (10_state.md R33, 43_control.md R102) -/

namespace Sys2Proof.Proofs

open Sys2Proof Sys2Proof.Machine Sys2Proof.Laws

/-- Everything a step can do when it goes on: no record is pending, or the next one is executed (20_memory.md R42). -/
theorem step_cases {s t : State} (h : step s = .next t) :
    (fetch s = .idle ∧ t = s) ∨ ∃ i rest, fetch s = .record i rest ∧ exec i (afterFetch rest s) = .next t := by
  unfold step at h
  split at h
  case h_1 hf =>
    cases h
    exact .inl ⟨hf, rfl⟩
  case h_2 => cases h
  case h_3 i rest hf => exact .inr ⟨i, rest, hf, h⟩

theorem execDispatch_cfg {cmd : CmdId} {n : Byte} {s t : State} (h : execDispatch cmd n s = .next t) :
    t.cfg = s.cfg := by
  rw [execDispatch_leaves h]

/-- CMD_CHAR stores either byte of the identifier (40_parser.md R73). -/
theorem execFeedCmdChar_cfg {c : Byte} {s t : State} (h : execFeedCmdChar c s = .next t) : t.cfg = s.cfg := by
  unfold execFeedCmdChar at h
  split at h
  · cases h
    rfl
  · cases h
    rfl

/-- LEN_TOO_LARGE clamps or rejects (40_parser.md R74). -/
theorem execFeedLenTooLarge_cfg {c : Byte} {s t : State} (h : execFeedLenTooLarge c s = .next t) : t.cfg = s.cfg := by
  unfold execFeedLenTooLarge at h
  split at h
  · cases h
    rfl
  · cases h
    rfl

/-- No operation changes the configuration: neither a record of the host, nor a row of the parser, nor DISPATCH. -/
theorem exec_cfg {i : Instr} {s t : State} (h : exec i s = .next t) : t.cfg = s.cfg := by
  cases i with
  | feed c now =>
    obtain ⟨-, rfl⟩ | ⟨-, -, hm⟩ | ⟨-, -, hm⟩ := execFeed_cases h
    · rfl
    · rw [cfg_of_move hm, stamp_cfg]
    · rw [cfg_of_move hm, stamp_cfg, setSt_cfg, clearFrame_cfg]
  | register id f =>
    obtain ⟨-, rfl⟩ | ⟨-, rfl⟩ := execRegister_cases h
    · rfl
    · rfl
  | send id n payload =>
    obtain ⟨-, rfl⟩ | ⟨-, rfl⟩ := execSend_cases h
    · rfl
    · rfl
  | handlerReturn =>
    obtain ⟨-, rfl⟩ | ⟨-, rfl⟩ := execHandlerReturn_cases h
    · rfl
    · rfl
  | feedCmdChar c => exact execFeedCmdChar_cfg h
  | feedLenTooLarge c => exact execFeedLenTooLarge_cfg h
  | feedPayloadByte c =>
    obtain ⟨-, rfl⟩ := execFeedPayloadByte_cases h
    rfl
  | feedEnd =>
    obtain ⟨u, hu, ht⟩ := andThen_eq_next h
    cases ht
    rw [setSt_cfg, clearFrame_cfg, execDispatch_cfg hu]
  | dispatch cmd n => exact execDispatch_cfg h
  | reset | statusRead | reserved110 | reserved111 | feedStart | feedIgnore | feedCmdByte | feedLenZero | feedLenMax
  | feedLenSmall | feedResync | feedEndAbort =>
    cases h
    rfl

/-- Settles O52: a step holds its state or executes one operation (`step_cases`), which keeps the configuration
(`exec_cfg`). -/
theorem configurationIsFixed : Obligations.ConfigurationIsFixed := by
  intro s t h
  obtain ⟨-, rfl⟩ | ⟨i, rest, -, hexec⟩ := step_cases h
  · rfl
  · rw [exec_cfg hexec, afterFetch_cfg]

end Sys2Proof.Proofs

/-! ### Refused operations (60_exceptions.md R109, R110) -/

namespace Sys2Proof.Proofs

open Sys2Proof Sys2Proof.Machine Sys2Proof.Laws

/-- On each condition of R109 the operation is `refuse`, with the reason of that condition. -/
theorem exec_eq_refuse_of_refusalOf {i : Instr} {s : State} {r : RefuseReason} (h : refusalOf i s = some r) :
    exec i s = .next (refuse r s) := by
  cases i with
  | feed c now =>
    obtain ⟨hh, ⟨⟩⟩ := Option.ite_none_right_eq_some.1 h
    exact execFeed_in_handler c now hh
  | register id f =>
    obtain ⟨hh, ⟨⟩⟩ := Option.ite_none_right_eq_some.1 h
    exact execRegister_in_handler id f hh
  | send id n payload =>
    cases payload with
    | none => cases h
    | some p =>
      obtain ⟨hshort, ⟨⟩⟩ := Option.ite_none_right_eq_some.1 h
      exact execSend_of_short (payload := some p) hshort
  | handlerReturn =>
    obtain ⟨hh, ⟨⟩⟩ := Option.ite_none_left_eq_some.1 h
    exact execHandlerReturn_of_idle (Bool.eq_false_of_not_eq_true hh)
  | reserved110 | reserved111 =>
    cases h
    rfl
  | _ => cases h

/-- No byte rule refuses. -/
theorem refusals_of_move {c : Byte} {s t : State} (hm : ParserMove c s t) : t.refusals = s.refusals := by
  cases hm with
  | etx hs hc u hu => rw [setSt_refusals, clearFrame_refusals, execDispatch_leaves hu]
  | _ => rfl

/-- CMD_CHAR is the first or the second character of the identifier (40_parser.md R73). -/
theorem execFeedCmdChar_cases {c : Byte} {s t : State} (h : execFeedCmdChar c s = .next t) :
    (s.cmdIdx = 0#1 ∧ t = setCmdFirst (fold s.cfg.caseFold c) s)
      ∨ (s.cmdIdx = 1#1 ∧ t = setSt .awaitingLength (setCmdSecond (fold s.cfg.caseFold c) s)) := by
  obtain hi | hi : s.cmdIdx = 0#1 ∨ s.cmdIdx = 1#1 := by bv_omega
  · cases (execFeedCmdChar_first c hi).symm.trans h
    exact .inl ⟨hi, rfl⟩
  · cases (execFeedCmdChar_second c hi).symm.trans h
    exact .inr ⟨hi, rfl⟩

/-- LEN_TOO_LARGE clamps or rejects (40_parser.md R74). -/
theorem execFeedLenTooLarge_cases {c : Byte} {s t : State} (h : execFeedLenTooLarge c s = .next t) :
    (s.cfg.lenPolicy = .clamp
        ∧ t = setSt .awaitingPayload (setLen (capByte s.cfg) (emit (.tooLarge c) (setTooLarge s))))
      ∨ (s.cfg.lenPolicy = .reject
        ∧ t = setSt .awaitingStart (clearFrame (emit (.tooLarge c) (setTooLarge s)))) := by
  cases hp : s.cfg.lenPolicy with
  | clamp =>
    cases (execFeedLenTooLarge_clamp c hp).symm.trans h
    exact .inl ⟨rfl, rfl⟩
  | reject =>
    cases (execFeedLenTooLarge_reject c hp).symm.trans h
    exact .inr ⟨rfl, rfl⟩

/-- Off the conditions of R109 no operation writes the refused mark, RESET included. -/
theorem refusals_of_admitted {i : Instr} {s t : State} (hadmit : refusalOf i s = none) (h : exec i s = .next t) :
    t.refusals = s.refusals := by
  cases i with
  | feed c now =>
    obtain ⟨hh, -⟩ | ⟨-, -, hm⟩ | ⟨-, -, hm⟩ := execFeed_cases h
    · simp [refusalOf, hh] at hadmit
    · rw [refusals_of_move hm, stamp_refusals]
    · rw [refusals_of_move hm, stamp_refusals, setSt_refusals, clearFrame_refusals]
  | register id f =>
    obtain ⟨hh, -⟩ | ⟨-, rfl⟩ := execRegister_cases h
    · simp [refusalOf, hh] at hadmit
    · rfl
  | send id n payload =>
    cases (execSend_of_le (sendLength_le_of_admitted hadmit)).symm.trans h
    rfl
  | handlerReturn =>
    obtain ⟨-, rfl⟩ | ⟨hh, -⟩ := execHandlerReturn_cases h
    · rfl
    · simp [refusalOf, hh] at hadmit
  | reserved110 | reserved111 => cases hadmit
  | feedCmdChar c =>
    obtain ⟨-, rfl⟩ | ⟨-, rfl⟩ := execFeedCmdChar_cases h
    · rfl
    · rfl
  | feedLenTooLarge c =>
    obtain ⟨-, rfl⟩ | ⟨-, rfl⟩ := execFeedLenTooLarge_cases h
    · rfl
    · rfl
  | feedPayloadByte c =>
    obtain ⟨-, rfl⟩ := execFeedPayloadByte_cases h
    rfl
  | feedEnd =>
    obtain ⟨u, hu, ht⟩ := andThen_eq_next h
    cases ht
    rw [setSt_refusals, clearFrame_refusals, execDispatch_leaves hu]
  | dispatch cmd n => rw [execDispatch_leaves h]
  | reset | statusRead | feedStart | feedIgnore | feedCmdByte | feedLenZero | feedLenMax | feedLenSmall | feedResync
  | feedEndAbort =>
    cases h
    rfl

/-- Settles O48: each condition of R109 selects the branch of its operation that is `refuse`, an update of the mark alone;
off these conditions every branch leaves the mark as it was. -/
theorem refusedOperationsChangeOnlyTheMark : Obligations.RefusedOperationsChangeOnlyTheMark :=
  fun _ _ => ⟨fun _ => exec_eq_refuse_of_refusalOf, fun hadmit _ => refusals_of_admitted hadmit⟩

end Sys2Proof.Proofs

/-! ### The host's records (30_encoding.md R60) -/

namespace Sys2Proof.Proofs

open Sys2Proof Sys2Proof.Machine Sys2Proof.Laws

section

variable {cfg : Config}

/-! Each operand's reader undoes its writer (Laws/Decoding.lean), so each family of records is read back whole. -/

theorem decodeFeed_encoded {now : Nat} (h : now < 2 ^ cfg.clockWidth) (c : Byte) (rest : List Byte) :
    decodeFeed cfg (c :: (leBytes (bytesFor cfg.clockWidth) now ++ rest)) = .ok (.feed c now, rest) := by
  simp only [decodeFeed, takeByte, takeLe_field h, if_pos h]

theorem decodeRegister_encoded {id : CmdId} {h : HandlerId} (hid : id.fits cfg.cmdWidth = true)
    (hh : cfg.handlerType.has h = true) (rest : List Byte) :
    decodeRegister cfg (cmdbytes cfg.cmdWidth id ++ (numBytes h ++ rest)) = .ok (.register id h, rest) := by
  simp only [decodeRegister, takeCmdId_cmdbytes hid, takeNum_numBytes, if_pos hh]

theorem decodeSend_encoded {id : CmdId} {n : Nat} (hid : id.fits cfg.cmdWidth = true) (hn : n < 2 ^ cfg.txLenWidth)
    (payload : Option (List Byte)) (rest : List Byte) :
    decodeSend cfg (cmdbytes cfg.cmdWidth id
        ++ (presentByte payload :: (leBytes (bytesFor cfg.txLenWidth) n ++ (payloadBytes payload ++ rest))))
      = .ok (.send id n payload, rest) := by
  simp only [decodeSend, takeCmdId_cmdbytes hid, takeByte, takeLe_field hn, if_neg (Nat.not_le.2 hn)]
  cases payload with
  | none => rfl
  | some p =>
    have hread : decodePayload (payloadBytes (some p) ++ rest) = .ok (p, rest) := decodePayload_payloadBytes p rest
    rw [hread]
    rfl

/-- Settles O2: the selector of an encoded record picks the reader of its family, and that reader undoes the writers of the
operands. -/
theorem recordsRoundTrip : Obligations.RecordsRoundTrip := by
  intro cfg i rest hi hwf
  cases i with
  | feed c now => exact decodeFeed_encoded (of_decide_eq_true hwf) c rest
  | register id h =>
    obtain ⟨hid, hh⟩ := Bool.and_eq_true_iff.1 hwf
    rw [encode, List.cons_append, List.append_assoc]
    exact decodeRegister_encoded hid hh rest
  | send id n payload =>
    obtain ⟨hid, hn⟩ := Bool.and_eq_true_iff.1 hwf
    rw [encode, List.cons_append, List.append_assoc, List.cons_append, List.append_assoc]
    exact decodeSend_encoded hid (of_decide_eq_true hn) payload rest
  | handlerReturn | reset | statusRead | reserved110 | reserved111 => rfl
  | _ => cases hi

/-! What a family's reader answers has met the checks on the way (30_encoding.md R60). -/

theorem decodeFeed_cases {bs rest : List Byte} {i : Instr} (h : decodeFeed cfg bs = .ok (i, rest)) :
    ∃ c now, i = .feed c now ∧ now < 2 ^ cfg.clockWidth := by
  unfold decodeFeed at h
  split at h
  · cases h
  split at h
  · cases h
  split at h
  next hlt =>
    cases h
    exact ⟨_, _, rfl, hlt⟩
  next => cases h

theorem decodeRegister_cases {bs rest : List Byte} {i : Instr} (h : decodeRegister cfg bs = .ok (i, rest)) :
    ∃ id f, i = .register id f ∧ id.fits cfg.cmdWidth = true ∧ cfg.handlerType.has f = true := by
  unfold decodeRegister at h
  split at h
  · cases h
  next hid =>
  split at h
  · cases h
  split at h
  next hf =>
    cases h
    exact ⟨_, _, rfl, takeCmdId_fits hid, hf⟩
  next => cases h

theorem decodeSend_cases {bs rest : List Byte} {i : Instr} (h : decodeSend cfg bs = .ok (i, rest)) :
    ∃ id n payload, i = .send id n payload ∧ id.fits cfg.cmdWidth = true ∧ n < 2 ^ cfg.txLenWidth := by
  unfold decodeSend at h
  split at h
  · cases h
  next hid =>
  split at h
  · cases h
  split at h
  · cases h
  split at h
  · cases h
  next hn =>
  split at h
  · cases h
    exact ⟨_, _, _, rfl, takeCmdId_fits hid, Nat.lt_of_not_le hn⟩
  split at h
  next =>
    split at h
    · cases h
    · cases h
      exact ⟨_, _, _, rfl, takeCmdId_fits hid, Nat.lt_of_not_le hn⟩
  next => cases h

end

/-- Settles O4: each reader of a family checks the ranges of its operands before it answers. -/
theorem decodedRecordsAreWellFormed : Obligations.DecodedRecordsAreWellFormed := by
  intro cfg bs rest i h
  cases bs with
  | nil => cases h
  | cons sel bs =>
    rw [decodeRecord] at h
    split at h
    case h_1 =>
      obtain ⟨c, now, rfl, hnow⟩ := decodeFeed_cases h
      exact ⟨rfl, decide_eq_true hnow⟩
    case h_2 =>
      obtain ⟨id, f, rfl, hid, hf⟩ := decodeRegister_cases h
      exact ⟨rfl, Bool.and_eq_true_iff.2 ⟨hid, hf⟩⟩
    case h_3 =>
      obtain ⟨id, n, payload, rfl, hid, hn⟩ := decodeSend_cases h
      exact ⟨rfl, Bool.and_eq_true_iff.2 ⟨hid, decide_eq_true hn⟩⟩
    case h_9 => cases h
    all_goals
      cases h
      exact ⟨rfl, rfl⟩

end Sys2Proof.Proofs

/-! ### A step and its record (20_memory.md R42, 60_exceptions.md R122) -/

namespace Sys2Proof.Proofs

open Sys2Proof Sys2Proof.Machine Sys2Proof.Laws

theorem fetch_of_decoded {s : State} {i : Instr} {rest : List Byte} (h : decodeRecord s.cfg s.port = .ok (i, rest)) :
    fetch s = .record i rest := by
  cases hp : s.port with
  | nil =>
    rw [hp] at h
    cases h
  | cons b bs =>
    rw [hp] at h
    simp only [fetch, hp, h]

theorem fetch_of_malformed {s : State} {e : DecodeError} (hp : s.port ≠ []) (h : decodeRecord s.cfg s.port = .error e) :
    fetch s = .malformed e := by
  obtain ⟨b, bs, hb⟩ := List.exists_cons_of_ne_nil hp
  rw [hb] at h
  simp only [fetch, hb, h]

theorem fetch_of_empty {s : State} (hp : s.port = []) : fetch s = .idle := by simp only [fetch, hp]

theorem step_of_fetched {s : State} {i : Instr} {rest : List Byte} (h : fetch s = .record i rest) :
    step s = exec i (afterFetch rest s) := by
  simp only [step, h]

/-- Settles O12: a step is by cases on what `fetch` finds in the port, which is what the decoder answers. -/
theorem stepRunsTheDecodedRecord : Obligations.StepRunsTheDecodedRecord := by
  refine ⟨fun s i rest h => step_of_fetched (fetch_of_decoded h), fun s hp => ?idle, fun s e hp h => ?malformed⟩
  case idle => simp only [step, fetch_of_empty hp]
  case malformed => simp only [step, fetch_of_malformed hp h]

/-- Settles O13: the port holds the record's bytes and nothing else, and they are read back whole (`recordsRoundTrip`). -/
theorem issuedRecordRunsNext : Obligations.IssuedRecordRunsNext := by
  intro s i hp hi hwf
  have hport : (issue i s).port = encode s.cfg i ++ [] := by simp [issue, hp]
  have hdecode : decodeRecord (issue i s).cfg (issue i s).port = .ok (i, []) := by
    rw [hport]
    exact recordsRoundTrip s.cfg i [] hi hwf
  rw [step_of_fetched (fetch_of_decoded hdecode), afterFetch, ← hp]
  rfl

/-- What `fetch` answers as a record is what the decoder read, so it is well-formed. -/
theorem wf_of_fetched {s : State} {i : Instr} {rest : List Byte} (h : fetch s = .record i rest) :
    i.isRecord = true ∧ i.wf s.cfg = true := by
  unfold fetch at h
  split at h
  · cases h
  split at h
  · cases h
  next hdecode =>
    cases h
    exact decodedRecordsAreWellFormed _ _ _ _ hdecode

end Sys2Proof.Proofs

/-! ### The invariant holds at reset and is kept by every step (10_state.md R31) -/

namespace Sys2Proof.Proofs

open Sys2Proof Sys2Proof.Machine Sys2Proof.Laws

/-- A block at power-on: the frame is clear, and the buffer, the registry and the trace are empty (10_state.md R32). -/
theorem inv_resetWith {cfg : Config} (h : cfg.wf = true) : (State.resetWith cfg).Inv := by
  obtain ⟨-, -, -, -, -, -, -, hfits, -⟩ := config_wf h
  constructor <;> simp [State.resetWith, h, hfits, Memory.wf, Table.rising]

/-- Settles O16: the reset values meet each field of the invariant; the default configuration is well-formed. -/
theorem invariantHoldsAtReset : Obligations.InvariantHoldsAtReset :=
  ⟨fun _ => inv_resetWith, inv_resetWith (by decide)⟩

theorem inv_refuse {s : State} (r : RefuseReason) (hi : s.Inv) : (refuse r s).Inv := { hi with }

theorem inv_afterFetch {s : State} (rest : List Byte) (hi : s.Inv) : (afterFetch rest s).Inv := { hi with }

theorem inv_leaveHandler {s : State} (hi : s.Inv) : (leaveHandler s).Inv := { hi with handler_idle := by simp }

theorem inv_regWrite {s : State} {id : CmdId} {h : HandlerId} (hi : s.Inv) (hid : id.fits s.cfg.cmdWidth = true)
    (hh : s.cfg.handlerType.has h = true) : (regWrite id h s).Inv :=
  { hi with
    reg_rising := rising_insert _ _ _ hi.reg_rising
    reg_key := by
      intro e he
      obtain rfl | he := mem_insert he
      · exact ⟨id, hid, rfl⟩
      · exact hi.reg_key e he
    reg_handler := by
      intro e he
      obtain rfl | he := mem_insert he
      · exact hh
      · exact hi.reg_handler e he }

/-- RESET leaves the buffer unspecified, but in canonical form and inside CAP (43_control.md R100). -/
theorem inv_reset {s t : State} (hi : s.Inv) (h : exec .reset s = .next t) : t.Inv := by
  cases h
  have hclear := inv_clear hi
  exact { hclear with
    lastT_lt := Nat.two_pow_pos _
    rb_wf := wf_ofFn _ _ _
    rb_index := fun c hc => by simpa using (mem_ofFn hc).2.1
    reg_rising := rfl
    reg_key := by simp
    reg_handler := by simp
    handler_idle := by simp }

/-- 42_encoder.md R95: SEND clamps to MAX_PAYLOAD_SIZE. -/
theorem sendLength_le (cfg : Config) (n : Nat) (payload : Option (List Byte)) :
    sendLength cfg n payload ≤ cfg.maxPayload := by
  cases payload with
  | none => exact Nat.zero_le _
  | some p => exact Nat.min_le_right _ _

/-- Every host operation keeps the invariant. -/
theorem inv_exec {i : Instr} {s t : State} (hi : s.Inv) (hrec : i.isRecord = true) (hwf : i.wf s.cfg = true)
    (h : exec i s = .next t) : t.Inv := by
  cases i with
  | feed c now =>
    have hnow : now < 2 ^ s.cfg.clockWidth := of_decide_eq_true hwf
    obtain ⟨-, rfl⟩ | ⟨hh, -, hm⟩ | ⟨hh, -, hm⟩ := execFeed_cases h
    · exact inv_refuse _ hi
    · exact inv_move (inv_stamp hi hnow) hh hm
    · exact inv_move (inv_stamp (inv_clear hi) hnow) hh hm
  | register id f =>
    obtain ⟨hid, hf⟩ := Bool.and_eq_true_iff.1 hwf
    obtain ⟨-, rfl⟩ | ⟨-, rfl⟩ := execRegister_cases h
    · exact inv_refuse _ hi
    · exact inv_regWrite hi hid hf
  | send id n payload =>
    obtain ⟨hid, -⟩ := Bool.and_eq_true_iff.1 hwf
    obtain ⟨-, rfl⟩ | ⟨hlen, rfl⟩ := execSend_cases h
    · exact inv_refuse _ hi
    · exact inv_emit hi ⟨id, _, hid, by rw [List.length_take_of_le hlen]; exact sendLength_le s.cfg n payload, rfl⟩
  | handlerReturn =>
    obtain ⟨-, rfl⟩ | ⟨-, rfl⟩ := execHandlerReturn_cases h
    · exact inv_leaveHandler hi
    · exact inv_refuse _ hi
  | reset => exact inv_reset hi h
  | statusRead =>
    cases h
    exact { hi with }
  | reserved110 | reserved111 =>
    cases h
    exact inv_refuse _ hi
  | _ => cases hrec

/-- Settles O17: a step holds its state or executes a decoded record (`step_cases`), whose operands are in range
(`wf_of_fetched`), and every such operation keeps the invariant (`inv_exec`). -/
theorem stepKeepsTheInvariant : Obligations.StepKeepsTheInvariant := by
  intro s t hi h
  obtain ⟨-, rfl⟩ | ⟨i, rest, hf, hexec⟩ := step_cases h
  · exact hi
  · obtain ⟨hrec, hwf⟩ := wf_of_fetched hf
    exact inv_exec (inv_afterFetch rest hi) hrec hwf hexec

end Sys2Proof.Proofs

/-! ### No fault is reached (40_parser.md R81, 60_exceptions.md R111) -/

namespace Sys2Proof.Proofs

open Sys2Proof Sys2Proof.Machine Sys2Proof.Laws

/-- In every state of the invariant each byte makes a move, at whatever time: RB is accessed inside CAP, and `st` is one of
the five states. -/
theorem exists_move {s : State} (c : Byte) (now : Nat) (hi : s.Inv) : ∃ t, ParserMove c (stamp now s) t := by
  cases hs : s.st with
  | awaitingStart =>
    by_cases hc : c = s.cfg.stx
    · exact ⟨_, .start hs hc⟩
    · exact ⟨_, .ignore hs hc⟩
  | awaitingCommand =>
    cases hw : s.cfg.cmdWidth with
    | one => exact ⟨_, .cmdByte hs hw⟩
    | two =>
      obtain hx | hx := BitVec.eq_zero_or_eq_one s.cmdIdx
      · exact ⟨_, .cmdFirst hs hw hx⟩
      · exact ⟨_, .cmdSecond hs hw hx⟩
  | awaitingLength =>
    by_cases hzero : c = 0#8
    · exact ⟨_, .lenZero hs hzero⟩
    by_cases hfits : c.toNat ≤ s.cfg.cap
    · exact ⟨_, .lenStored hs hzero hfits⟩
    cases hp : s.cfg.lenPolicy with
    | clamp => exact ⟨_, .lenClamped hs (Nat.lt_of_not_le hfits) hp⟩
    | reject => exact ⟨_, .lenRejected hs (Nat.lt_of_not_le hfits) hp⟩
  | awaitingPayload => exact ⟨_, .payload hs (lt_of_lt_of_le (hi.payload_open hs).2 hi.len_le_cap)⟩
  | awaitingEnd =>
    by_cases hetx : c = s.cfg.etx
    · obtain ⟨u, hu, -⟩ := execDispatch_then_clear (s := stamp now s) hi.len_le_cap
      exact ⟨_, .etx (s := stamp now s) hs hetx u hu⟩
    by_cases hstx : c = s.cfg.stx
    · exact ⟨_, .resync hs hetx hstx⟩
    · exact ⟨_, .abort hs hetx hstx⟩
  | notState k => exact absurd hs (hi.st_isState k)

/-- An admitted FEED makes its move after the staleness check and the timestamp. -/
theorem exec_feed_of_move_admitted {c : Byte} {now : Nat} {s t : State} (hh : s.inHandler = false)
    (hm : ParserMove c (stamp now (staleReset now s)) t) : exec (.feed c now) s = .next t :=
  (execFeed_admitted c now hh).trans (parseByte_of_move hm)

/-- Settles O49: a FEED is refused or has a move to make (`exists_move`); each branch of the other operations is a next
state. -/
theorem noHostOperationStops : Obligations.NoHostOperationStops := by
  intro s i hi hrec
  cases i with
  | feed c now =>
    cases hh : s.inHandler with
    | true => exact ⟨_, execFeed_in_handler c now hh⟩
    | false =>
      obtain ⟨t, hm⟩ := exists_move c now (inv_staleReset now hi)
      exact ⟨t, exec_feed_of_move_admitted hh hm⟩
  | register id f =>
    cases hh : s.inHandler with
    | true => exact ⟨_, execRegister_in_handler id f hh⟩
    | false => exact ⟨_, execRegister_of_idle id f hh⟩
  | send id n payload =>
    obtain hlen | hlen := Nat.lt_or_ge (suppliedBytes payload).length (sendLength s.cfg n payload)
    · exact ⟨_, execSend_of_short hlen⟩
    · exact ⟨_, execSend_of_le hlen⟩
  | handlerReturn =>
    cases hh : s.inHandler with
    | true => exact ⟨_, execHandlerReturn_in_handler hh⟩
    | false => exact ⟨_, execHandlerReturn_of_idle hh⟩
  | reset | statusRead | reserved110 | reserved111 => exact ⟨_, rfl⟩
  | _ => cases hrec

end Sys2Proof.Proofs

/-! ### Stale bytes of RB are unobservable (10_state.md R25, R31(e)) -/

namespace Sys2Proof.Proofs

open Sys2Proof Sys2Proof.Machine Sys2Proof.Laws

/-- The state with another receive buffer. -/
def withRb (m : List Host.Cell) (s : State) : State := { s with rb := m }

/-- The receive buffers `m` and `m'` hold the same bytes below index `n`. -/
def AgreeBelow (n : Nat) (m m' : List Host.Cell) : Prop := ∀ a, a < n → Memory.read m' a = Memory.read m a

/-- The states that agree with `s` up to stale bytes are `s` with another buffer, the same at the `cnt` bytes received. -/
theorem agreesUpToStaleBytes_iff {s s' : State} :
    s.agreesUpToStaleBytes s' ↔ ∃ m, s' = withRb m s ∧ AgreeBelow s.cnt.toNat s.rb m := by
  constructor
  · rintro ⟨hsame, hread⟩
    exact ⟨s'.rb, by rw [← hsame]; rfl, hread⟩
  · rintro ⟨m, rfl, hread⟩
    exact ⟨rfl, hread⟩

/-- DISPATCH of the bytes received takes place alike over another buffer that holds them. -/
theorem execDispatch_withRb {cmd : CmdId} {n : Byte} {s u : State} {m : List Host.Cell}
    (hm : AgreeBelow n.toNat s.rb m) (hu : execDispatch cmd n s = .next u) :
    execDispatch cmd n (withRb m s) = .next (withRb m u) := by
  have hp : rbBytes (withRb m s) 0 n.toNat = rbBytes s 0 n.toNat :=
    rbBytes_congr fun k hk => hm (0 + k) (by omega)
  obtain ⟨hn, ⟨f, hl, rfl⟩ | ⟨f, hl, hf, rfl⟩ | ⟨hl, hf, rfl⟩⟩ := execDispatch_cases hu
  · rw [execDispatch_of_exact (s := withRb m s) hn hl, hp]
    rfl
  · rw [execDispatch_of_fallback (s := withRb m s) hn hl hf, hp]
    rfl
  · exact execDispatch_of_unregistered (s := withRb m u) hn hl hf

/-- Buffers that agree below `n` agree below `n + 1` once the same byte is written there. -/
theorem AgreeBelow.write {n k : Nat} {m m' : List Host.Cell} (h : AgreeBelow n m m') (v : Byte) (hk : k ≤ n + 1) :
    AgreeBelow k (Memory.write m n v) (Memory.write m' n v) := by
  intro a ha
  by_cases hn : a = n
  · rw [hn, read_write_same, read_write_same]
  · rw [read_write_other m' v hn, read_write_other m v hn]
    exact h a (by omega)

/-- Every move of the parser is made alike over another buffer that holds the bytes received: a payload byte writes both at
`cnt`, ETX reads `len` bytes where `len` is `cnt`, and no other move touches RB. -/
theorem move_withRb {c : Byte} {s t : State} {m : List Host.Cell} (hfull : s.st = .awaitingEnd → s.cnt = s.len)
    (hm : AgreeBelow s.cnt.toNat s.rb m) (h : ParserMove c s t) :
    ∃ m', ParserMove c (withRb m s) (withRb m' t) ∧ AgreeBelow t.cnt.toNat t.rb m' := by
  have hnone : AgreeBelow (0#8).toNat s.rb m := by simp [AgreeBelow]
  cases h with
  | start hs hc => exact ⟨m, .start hs hc, hnone⟩
  | ignore hs hc => exact ⟨m, .ignore hs hc, hm⟩
  | cmdByte hs hw => exact ⟨m, .cmdByte hs hw, hm⟩
  | cmdFirst hs hw hx => exact ⟨m, .cmdFirst hs hw hx, hm⟩
  | cmdSecond hs hw hx => exact ⟨m, .cmdSecond hs hw hx, hm⟩
  | lenZero hs hc => exact ⟨m, .lenZero hs hc, hm⟩
  | lenStored hs hc hl => exact ⟨m, .lenStored hs hc hl, hm⟩
  | lenClamped hs hl hp => exact ⟨m, .lenClamped hs hl hp, hm⟩
  | lenRejected hs hl hp => exact ⟨m, .lenRejected hs hl hp, hnone⟩
  | payload hs hl =>
    have hnext : (s.cnt + 1#8).toNat ≤ s.cnt.toNat + 1 := by
      rw [BitVec.toNat_add]
      exact Nat.mod_le _ _
    exact ⟨Memory.write m s.cnt.toNat c, .payload hs hl, hm.write c hnext⟩
  | etx hs hc u hu =>
    rw [hfull hs] at hm
    exact ⟨m, .etx (s := withRb m s) hs hc _ (execDispatch_withRb hm hu), by simp [AgreeBelow]⟩
  | resync hs he hc => exact ⟨m, .resync hs he hc, hnone⟩
  | abort hs he hc => exact ⟨m, .abort hs he hc, hnone⟩

/-- A FEED over another buffer that holds the bytes received; a stale frame leaves none of them to agree on. -/
theorem feed_withRb {c : Byte} {now : Nat} {s t : State} {m : List Host.Cell}
    (hfull : s.st = .awaitingEnd → s.cnt = s.len) (hm : AgreeBelow s.cnt.toNat s.rb m)
    (h : exec (.feed c now) s = .next t) :
    ∃ m', exec (.feed c now) (withRb m s) = .next (withRb m' t) ∧ AgreeBelow t.cnt.toNat t.rb m' := by
  obtain ⟨hh, rfl⟩ | ⟨hh, hstale, hmove⟩ | ⟨hh, hstale, hmove⟩ := execFeed_cases h
  · exact ⟨m, execFeed_in_handler (s := withRb m s) c now hh, hm⟩
  · obtain ⟨m', hmove', hm'⟩ := move_withRb (s := stamp now s) hfull hm hmove
    exact ⟨m', exec_feed_of_move (s := withRb m s) ⟨hh, hstale⟩ hmove', hm'⟩
  · obtain ⟨m', hmove', hm'⟩ := move_withRb (m := m) (by simp) (by simp [AgreeBelow]) hmove
    exact ⟨m', exec_feed_of_move_stale (s := withRb m s) hh hstale hmove', hm'⟩

/-- Every host operation takes place alike over another buffer that holds the bytes received. RESET leaves the same free
contents in both. -/
theorem exec_withRb {i : Instr} {s t : State} {m : List Host.Cell} (hrec : i.isRecord = true)
    (hfull : s.st = .awaitingEnd → s.cnt = s.len) (hm : AgreeBelow s.cnt.toNat s.rb m) (h : exec i s = .next t) :
    ∃ m', exec i (withRb m s) = .next (withRb m' t) ∧ AgreeBelow t.cnt.toNat t.rb m' := by
  cases i with
  | feed c now => exact feed_withRb hfull hm h
  | register id f =>
    obtain ⟨hh, rfl⟩ | ⟨hh, rfl⟩ := execRegister_cases h
    · exact ⟨m, execRegister_in_handler (s := withRb m s) id f hh, hm⟩
    · exact ⟨m, execRegister_of_idle (s := withRb m s) id f hh, hm⟩
  | send id n payload =>
    obtain ⟨hlen, rfl⟩ | ⟨hlen, rfl⟩ := execSend_cases h
    · exact ⟨m, execSend_of_short (s := withRb m s) hlen, hm⟩
    · rw [← wireBytes_eq_frame hlen]
      exact ⟨m, execSend_of_le (s := withRb m s) hlen, hm⟩
  | handlerReturn =>
    obtain ⟨hh, rfl⟩ | ⟨hh, rfl⟩ := execHandlerReturn_cases h
    · exact ⟨m, execHandlerReturn_in_handler (s := withRb m s) hh, hm⟩
    · exact ⟨m, execHandlerReturn_of_idle (s := withRb m s) hh, hm⟩
  | reset =>
    cases h
    exact ⟨_, exec_reset (withRb m s), fun _ _ => rfl⟩
  | statusRead | reserved110 | reserved111 =>
    cases h
    exact ⟨m, rfl, hm⟩
  | _ => cases hrec

/-- Settles O58: both states hold the same pending records, so both are idle, stop at the same malformed bytes, or execute the
same record; that record goes on from the one (`noHostOperationStops`), and then likewise from the other (`exec_withRb`). -/
theorem staleBufferBytesAreUnobservable : Obligations.StaleBufferBytesAreUnobservable := by
  rintro s s' hi - hagree
  obtain ⟨m, rfl, hm⟩ := agreesUpToStaleBytes_iff.1 hagree
  have hsame : fetch (withRb m s) = fetch s := rfl
  cases hf : fetch s with
  | idle =>
    simp only [step, hsame, hf]
    exact hagree
  | malformed e =>
    simp only [step, hsame, hf]
    rfl
  | record i rest =>
    obtain ⟨hrec, -⟩ := wf_of_fetched hf
    obtain ⟨t, ht⟩ := noHostOperationStops (afterFetch rest s) i (inv_afterFetch rest hi) hrec
    obtain ⟨m', ht', hm'⟩ := exec_withRb (s := afterFetch rest s) hrec hi.end_full hm ht
    have hstep' : step (withRb m s) = .next (withRb m' t) := (step_of_fetched (hsame.trans hf)).trans ht'
    rw [step_of_fetched hf, ht, hstep']
    exact agreesUpToStaleBytes_iff.2 ⟨m', rfl, hm'⟩

end Sys2Proof.Proofs

/-! ### The parser's byte table (30_encoding.md R59, R61, R62; 40_parser.md R80) -/

namespace Sys2Proof.Proofs

open Sys2Proof Sys2Proof.Machine Sys2Proof.Laws

/-- The row of the byte table for a state and a byte: what `decodeKey` selects (`decodeKey_eq_rowOf`) and what the byte rules
run (`parseByte_of_rowOf`). -/
def rowOf (cfg : Config) : ParserState → Byte → Option Instr
  | .awaitingStart, c => some (if c = cfg.stx then .feedStart else .feedIgnore c)
  | .awaitingCommand, c => some (match cfg.cmdWidth with | .one => .feedCmdByte c | .two => .feedCmdChar c)
  | .awaitingLength, c =>
    some (if c = 0#8 then .feedLenZero else if c.toNat = cfg.cap then .feedLenMax
      else if c.toNat < cfg.cap then .feedLenSmall c else .feedLenTooLarge c)
  | .awaitingPayload, c => some (.feedPayloadByte c)
  | .awaitingEnd, c => some (if c = cfg.etx then .feedEnd else if c = cfg.stx then .feedResync else .feedEndAbort c)
  | .notState _, _ => none

theorem decodeKey_eq_rowOf {cfg : Config} (hcap : 1 ≤ cfg.cap) (st : ParserState) (c : Byte) :
    decodeKey cfg st c = rowOf cfg st c := by
  cases st with
  | awaitingStart => exact decodeKey_awaitingStart cfg c
  | awaitingCommand => exact decodeKey_awaitingCommand cfg c
  | awaitingLength => exact decodeKey_awaitingLength hcap c
  | awaitingPayload => exact decodeKey_awaitingPayload cfg c
  | awaitingEnd => exact decodeKey_awaitingEnd cfg c
  | notState k => exact decodeKey_notState cfg k c

/-- The byte rules (40_parser.md R80) run the row of the state and the byte. -/
theorem parseByte_of_rowOf {s : State} {st : ParserState} {c : Byte} {i : Instr} (hs : s.st = st)
    (h : rowOf s.cfg st c = some i) : parseByte c s = exec i s := by
  cases st with
  | awaitingStart =>
    cases h
    rw [parseByte_awaitingStart c hs, apply_ite (exec · s)]
    rfl
  | awaitingCommand =>
    cases h
    cases hw : s.cfg.cmdWidth <;> simp only [parseByte_awaitingCommand c hs, hw, exec]
  | awaitingLength =>
    cases h
    rw [parseByte_awaitingLength c hs, apply_ite (exec · s), apply_ite (exec · s), apply_ite (exec · s)]
    rfl
  | awaitingPayload =>
    cases h
    exact parseByte_awaitingPayload c hs
  | awaitingEnd =>
    cases h
    rw [parseByte_awaitingEnd c hs, apply_ite (exec · s), apply_ite (exec · s)]
    rfl
  | notState k => cases h

/-- 30_encoding.md R62: a code that is no state has no row, and no other code is without one. -/
theorem rowOf_eq_none_iff {cfg : Config} {st : ParserState} {c : Byte} :
    rowOf cfg st c = none ↔ ∃ k, st = .notState k := by
  cases st <;> simp [rowOf]

@[simp] theorem staleReset_cfg (now : Nat) (s : State) : (staleReset now s).cfg = s.cfg := by
  obtain ⟨-, h⟩ | ⟨-, h⟩ := staleReset_cases now s <;> rw [h]
  rfl

/-- Settles O31: both the byte table and the byte rules answer `rowOf` for the state that the staleness check left; where it
has no row, that state is a code that is no state. -/
theorem feedRunsTheRowOfItsKey : Obligations.FeedRunsTheRowOfItsKey := by
  intro s c now hwf hh
  obtain ⟨-, hcap, -⟩ := config_wf hwf
  have hfeed : exec (.feed c now) s = parseByte c (stamp now (staleReset now s)) := execFeed_admitted c now hh
  rw [decodeKey_eq_rowOf hcap, hfeed]
  refine ⟨fun i hrow => ?row, fun hnone => ?badState⟩
  case row =>
    exact parseByte_of_rowOf (s := stamp now (staleReset now s)) rfl (by rwa [stamp_cfg, staleReset_cfg])
  case badState =>
    obtain ⟨k, hk⟩ := rowOf_eq_none_iff.1 hnone
    exact parseByte_notState (s := stamp now (staleReset now s)) c hk

/-- A well-formed row is that of the key it is encoded as. -/
theorem exists_key_of_row {cfg : Config} {i : Instr} (hwf : cfg.wf = true) (hrow : i.isRow = true) (hi : i.wf cfg = true) :
    ∃ st c, encode cfg i = keyBytes st c ∧ rowOf cfg st c = some i := by
  obtain ⟨hne, hcap, hcap', -⟩ := config_wf hwf
  cases i with
  | feedStart => exact ⟨_, _, rfl, by simp [rowOf]⟩
  | feedIgnore c => exact ⟨_, _, rfl, by simpa [rowOf, Instr.wf] using hi⟩
  | feedCmdByte c =>
    have hw : cfg.cmdWidth = .one := eq_of_beq hi
    exact ⟨_, _, rfl, by simp [rowOf, hw]⟩
  | feedCmdChar c =>
    have hw : cfg.cmdWidth = .two := eq_of_beq hi
    exact ⟨_, _, rfl, by simp [rowOf, hw]⟩
  | feedLenZero => exact ⟨_, _, rfl, by simp [rowOf]⟩
  | feedLenMax =>
    have hlen : (BitVec.ofNat 8 cfg.cap).toNat = cfg.cap := toNat_capByte hcap'
    have hzero : BitVec.ofNat 8 cfg.cap ≠ 0#8 := fun h => by simp [h] at hlen; omega
    exact ⟨_, _, rfl, by simp only [rowOf, if_neg hzero, if_pos hlen]⟩
  | feedLenSmall c =>
    obtain ⟨hpos, hlt⟩ : 1 ≤ c.toNat ∧ c.toNat < cfg.cap := by simpa [Instr.wf] using hi
    have hzero : c ≠ 0#8 := fun h => by simp [h] at hpos
    exact ⟨_, _, rfl, by simp only [rowOf, if_neg hzero, if_neg hlt.ne, if_pos hlt]⟩
  | feedLenTooLarge c =>
    have hlt : cfg.cap < c.toNat := of_decide_eq_true hi
    have hzero : c ≠ 0#8 := fun h => by simp [h] at hlt
    exact ⟨_, _, rfl, by simp only [rowOf, if_neg hzero, if_neg hlt.ne', if_neg hlt.not_gt]⟩
  | feedPayloadByte c => exact ⟨_, _, rfl, rfl⟩
  | feedEnd => exact ⟨_, _, rfl, by simp [rowOf]⟩
  | feedResync => exact ⟨_, _, rfl, by simp [rowOf, hne]⟩
  | feedEndAbort c =>
    obtain ⟨hetx, hstx⟩ : c ≠ cfg.etx ∧ c ≠ cfg.stx := by simpa [Instr.wf] using hi
    exact ⟨_, _, rfl, by simp only [rowOf, if_neg hetx, if_neg hstx]⟩
  | _ => cases hrow

/-- Settles O3: a row's key has that row (`exists_key_of_row`), and the two bytes of a key are read as its state and byte. -/
theorem parserKeysRoundTrip : Obligations.ParserKeysRoundTrip := by
  intro cfg i rest hwf hrow hi
  obtain ⟨-, hcap, -⟩ := config_wf hwf
  obtain ⟨st, c, henc, hkey⟩ := exists_key_of_row hwf hrow hi
  rw [henc]
  exact decodeKeyBytes_keyBytes ((decodeKey_eq_rowOf hcap st c).trans hkey) rest

/-- The row of a key meets its condition on the byte, and is encoded as that key. -/
theorem wf_of_rowOf {cfg : Config} {st : ParserState} {c : Byte} {i : Instr} (h : rowOf cfg st c = some i) :
    i.isRow = true ∧ i.wf cfg = true ∧ encode cfg i = keyBytes st c := by
  cases st with
  | awaitingStart =>
    cases h
    split
    next hc => exact ⟨rfl, rfl, by rw [hc]; rfl⟩
    next hc => exact ⟨rfl, bne_iff_ne.2 hc, rfl⟩
  | awaitingCommand =>
    cases h
    cases hw : cfg.cmdWidth with
    | one => exact ⟨rfl, beq_iff_eq.2 hw, rfl⟩
    | two => exact ⟨rfl, beq_iff_eq.2 hw, rfl⟩
  | awaitingLength =>
    cases h
    split
    next hzero => exact ⟨rfl, rfl, by rw [hzero]; rfl⟩
    next hzero =>
    have hpos : c.toNat ≠ 0 := fun h => hzero (BitVec.eq_of_toNat_eq h)
    split
    next hmax => exact ⟨rfl, rfl, by rw [encode, ← hmax, BitVec.ofNat_toNat, BitVec.setWidth_eq]⟩
    next hmax =>
    split
    next hlt => exact ⟨rfl, by simp [Instr.wf, hlt]; omega, rfl⟩
    next hge => exact ⟨rfl, by simp [Instr.wf]; omega, rfl⟩
  | awaitingPayload =>
    cases h
    exact ⟨rfl, rfl, rfl⟩
  | awaitingEnd =>
    cases h
    split
    next hetx => exact ⟨rfl, rfl, by rw [hetx]; rfl⟩
    next hetx =>
    split
    next hstx => exact ⟨rfl, rfl, by rw [hstx]; rfl⟩
    next hstx => exact ⟨rfl, by simp [Instr.wf, hetx, hstx], rfl⟩
  | notState k => cases h

/-- Settles O5: `rowOf` is a function, with a row for every state (`rowOf_eq_none_iff`); the row is well-formed and its key
is the one it was selected by (`wf_of_rowOf`). -/
theorem everyKeyOfAStateHasItsRow : Obligations.EveryKeyOfAStateHasItsRow := by
  intro cfg st c hwf
  obtain ⟨-, hcap, -⟩ := config_wf hwf
  rw [decodeKey_eq_rowOf hcap]
  refine ⟨fun hstate => ?_, rowOf_eq_none_iff.2⟩
  cases hrow : rowOf cfg st c with
  | none =>
    obtain ⟨k, hk⟩ := rowOf_eq_none_iff.1 hrow
    exact absurd hk (hstate k)
  | some i => exact ⟨i, rfl, wf_of_rowOf hrow⟩

/-- Settles O7: the five codes are those of `ParserState.code`, which is inverse to `ofCode`; that the codes from 0b101 on
are no states is a fact about eight codes. -/
theorem stateCodesAreThePrintedOnes : Obligations.StateCodesAreThePrintedOnes :=
  ⟨rfl, rfl, rfl, rfl, rfl, by decide, ofCode_code, code_ofCode⟩

/-- Settles O1: each word is a closed term, and the decoder is run on it. -/
theorem tableWordsDecodeToTheirOperations : Obligations.TableWordsDecodeToTheirOperations := by
  unfold Obligations.TableWordsDecodeToTheirOperations
  decide

/-- A masked comparison of a key is one of its state code and one of its byte. -/
theorem keyOf_and_beq (st : ParserState) (c : Byte) (mask code : BitVec 3) (bmask byte : Byte) :
    (keyOf st c &&& (mask ++ bmask) == code ++ byte) = (st.code &&& mask == code && (c &&& bmask == byte)) := by
  have hsplit : keyOf st c &&& (mask ++ bmask) = (st.code &&& mask) ++ (c &&& bmask) := BitVec.and_append
  rw [hsplit, Bool.eq_iff_iff, Bool.and_eq_true, beq_iff_eq, beq_iff_eq, beq_iff_eq]
  constructor
  · intro h
    exact ⟨by rw [← extract_append_high (st.code &&& mask) (c &&& bmask), h, extract_append_high],
      by rw [← extract_append_low (st.code &&& mask) (c &&& bmask), h, extract_append_low]⟩
  · rintro ⟨rfl, rfl⟩
    rfl

/-- The printed masks and matches, each cut into its state code and its byte. -/
theorem defaultKeyMasks_eq : defaultKeyMasks =
    [ (0b000#3 ++ 0x02#8, BitVec.allOnes 3 ++ BitVec.allOnes 8, fun _ => .feedStart),
      (0b000#3 ++ 0x00#8, BitVec.allOnes 3 ++ 0x00#8, .feedIgnore),
      (0b001#3 ++ 0x00#8, BitVec.allOnes 3 ++ 0x00#8, .feedCmdByte),
      (0b010#3 ++ 0x00#8, BitVec.allOnes 3 ++ BitVec.allOnes 8, fun _ => .feedLenZero),
      (0b010#3 ++ 0x80#8, BitVec.allOnes 3 ++ BitVec.allOnes 8, fun _ => .feedLenMax),
      (0b010#3 ++ 0x00#8, BitVec.allOnes 3 ++ 0x80#8, .feedLenSmall),
      (0b010#3 ++ 0x80#8, BitVec.allOnes 3 ++ 0x80#8, .feedLenTooLarge),
      (0b011#3 ++ 0x00#8, BitVec.allOnes 3 ++ 0x00#8, .feedPayloadByte),
      (0b100#3 ++ 0x03#8, BitVec.allOnes 3 ++ BitVec.allOnes 8, fun _ => .feedEnd),
      (0b100#3 ++ 0x02#8, BitVec.allOnes 3 ++ BitVec.allOnes 8, fun _ => .feedResync),
      (0b100#3 ++ 0x00#8, BitVec.allOnes 3 ++ 0x00#8, .feedEndAbort) ] := rfl

/-- The mask 0x80 of the rows LEN_SMALL and LEN_TOO_LARGE reads bit 7 of the byte: it tells the bytes below CAP = 128. -/
theorem and_high_bit (c : Byte) :
    (c &&& 0x80#8 == 0x00#8) = decide (c.toNat < 128) ∧ (c &&& 0x80#8 == 0x80#8) = decide (128 ≤ c.toNat) := by
  revert c
  decide

/-- The first row of the printed masks that matches a key is the row of its state and byte. -/
theorem decodeKeyByMasks_keyOf (st : ParserState) (c : Byte) :
    decodeKeyByMasks (keyOf st c) = rowOf Config.default st c := by
  obtain ⟨hlow, hhigh⟩ := and_high_bit c
  simp only [decodeKeyByMasks, defaultKeyMasks_eq, List.find?, keyOf_and_beq, keyOf_byte, BitVec.and_allOnes,
    BitVec.and_zero, hlow, hhigh]
  cases st with
  | awaitingStart =>
    by_cases hstx : c = 0x02#8
    · simp [ParserState.code, rowOf, Config.default, hstx]
    · simp [ParserState.code, rowOf, Config.default, hstx, beq_false_of_ne hstx]
  | awaitingCommand | awaitingPayload => rfl
  | awaitingLength =>
    by_cases hzero : c = 0x00#8
    · simp [ParserState.code, rowOf, hzero]
    by_cases hmax : c = 0x80#8
    · simp [ParserState.code, rowOf, Config.default, hmax]
    have hne : c.toNat ≠ 128 := fun h => hmax (BitVec.eq_of_toNat_eq h)
    by_cases hlt : c.toNat < 128
    · simp [ParserState.code, rowOf, Config.default, hzero, hne, hlt, beq_false_of_ne hzero, beq_false_of_ne hmax]
    · simp [ParserState.code, rowOf, Config.default, hzero, hne, hlt, Nat.le_of_not_lt hlt, beq_false_of_ne hzero,
        beq_false_of_ne hmax]
  | awaitingEnd =>
    by_cases hetx : c = 0x03#8
    · simp [ParserState.code, rowOf, Config.default, hetx]
    by_cases hstx : c = 0x02#8
    · simp [ParserState.code, rowOf, Config.default, hstx]
    · simp [ParserState.code, rowOf, Config.default, hetx, hstx, beq_false_of_ne hetx, beq_false_of_ne hstx]
  | notState k => fin_cases k <;> rfl

/-- Settles O6: the key's two fields are read back whole, and both the printed masks and the byte table answer `rowOf`. -/
theorem defaultRowsAreThePrintedMasks : Obligations.DefaultRowsAreThePrintedMasks := by
  intro st c
  refine ⟨?fields, ?masks⟩
  case fields => rw [decodeKeyBits, keyOf_state, keyOf_byte, ofCode_code]
  case masks => rw [decodeKeyByMasks_keyOf, decodeKey_eq_rowOf (by decide)]

end Sys2Proof.Proofs

/-! ### What a FEED writes (10_state.md R20, R25, R28; 40_parser.md R80) -/

namespace Sys2Proof.Proofs

open Sys2Proof Sys2Proof.Machine Sys2Proof.Laws

/-- Only a payload byte writes RB, at index `cnt` (40_parser.md R76). -/
theorem rb_of_move {c : Byte} {s t : State} (hm : ParserMove c s t) :
    t.rb = s.rb ∨ (s.st = .awaitingPayload ∧ t.rb = Memory.write s.rb s.cnt.toNat c) := by
  cases hm with
  | payload hs hl => exact .inr ⟨hs, rfl⟩
  | etx hs hc u hu =>
    rw [execDispatch_leaves hu]
    exact .inl rfl
  | _ => exact .inl rfl

/-- No byte rule clears `too_large`. -/
theorem tooLarge_of_move {c : Byte} {s t : State} (hm : ParserMove c s t) (h : s.tooLarge = true) : t.tooLarge = true := by
  cases hm with
  | lenClamped | lenRejected => rfl
  | etx hs hc u hu =>
    rw [execDispatch_leaves hu]
    exact h
  | _ => exact h

/-- What the byte rules leave alone, with the clock sample and the refused mark (`lastT_of_move`, `refusals_of_move`). -/
theorem move_leaves {c : Byte} {s t : State} (hm : ParserMove c s t) :
    t.cfg = s.cfg ∧ t.reg = s.reg ∧ t.port = s.port ∧ t.result = s.result ∧ t.free = s.free := by
  cases hm with
  | etx hs hc u hu =>
    rw [execDispatch_leaves hu]
    exact ⟨rfl, rfl, rfl, rfl, rfl⟩
  | _ => exact ⟨rfl, rfl, rfl, rfl, rfl⟩

/-- A FEED that goes on leaves RB alone, or it is an in-time payload byte and writes it at index `cnt`. -/
theorem rb_of_feed {c : Byte} {now : Nat} {s t : State} (h : exec (.feed c now) s = .next t) :
    t.rb = s.rb
      ∨ (s.st = .awaitingPayload ∧ s.takesByteInTime now ∧ t.rb = Memory.write s.rb s.cnt.toNat c) := by
  obtain ⟨-, rfl⟩ | ⟨hh, hstale, hm⟩ | ⟨-, -, hm⟩ := execFeed_cases h
  · exact .inl rfl
  · obtain hsame | ⟨hs, hwrite⟩ := rb_of_move hm
    · exact .inl hsame
    · exact .inr ⟨hs, ⟨hh, hstale⟩, hwrite⟩
  · obtain hsame | ⟨hs, -⟩ := rb_of_move hm
    · exact .inl hsame
    · cases hs

theorem rbByte_of_rb {t : State} {m : List Host.Cell} (h : t.rb = m) (a : Nat) : rbByte t a = Memory.read m a := by
  rw [rbByte, h]

/-- A byte of RB after a FEED: the received byte at index `cnt` of a frame that takes it in time, and otherwise as before. -/
theorem rbByte_of_feed {c : Byte} {now : Nat} {s t : State} (h : exec (.feed c now) s = .next t) (a : Nat) :
    rbByte t a = rbByte s a
      ∨ (a = s.cnt.toNat ∧ s.st = .awaitingPayload ∧ s.takesByteInTime now ∧ rbByte t a = c) := by
  obtain hsame | ⟨hs, hin, hwrite⟩ := rb_of_feed h
  · exact .inl (rbByte_of_rb hsame a)
  · by_cases ha : a = s.cnt.toNat
    · refine .inr ⟨ha, hs, hin, ?_⟩
      rw [rbByte_of_rb hwrite, ha, read_write_same]
    · refine .inl ?_
      rw [rbByte_of_rb hwrite, read_write_other s.rb c ha, rbByte]

/-- Settles O32: a refused FEED sets the mark alone; an admitted one makes a move of the parser, from a state that differs from
`s` in the registers of the frame and in `last_t`. -/
theorem feedFrame : Obligations.FeedFrame := by
  intro s t c now h
  have hbytes : ∀ a, a ≠ s.cnt.toNat → rbByte t a = rbByte s a := fun a ha =>
    (rbByte_of_feed h a).resolve_right fun hw => ha hw.1
  have hrb : ¬ (s.st = .awaitingPayload ∧ s.takesByteInTime now) → t.rb = s.rb := fun hno =>
    (rb_of_feed h).resolve_right fun hw => hno ⟨hw.1, hw.2.1⟩
  obtain ⟨hh, rfl⟩ | ⟨-, -, hm⟩ | ⟨-, -, hm⟩ := execFeed_cases h
  · exact ⟨rfl, rfl, rfl, rfl, rfl, hbytes, hrb, by simp [hh], id⟩
  · obtain ⟨hcfg, hreg, hport, hresult, hfree⟩ := move_leaves hm
    have hmark := refusals_of_move hm
    have hflag := tooLarge_of_move hm
    exact ⟨hcfg, hreg, hport, hresult, hfree, hbytes, hrb, fun _ => hmark, hflag⟩
  · obtain ⟨hcfg, hreg, hport, hresult, hfree⟩ := move_leaves hm
    have hmark := refusals_of_move hm
    have hflag := tooLarge_of_move hm
    exact ⟨hcfg, hreg, hport, hresult, hfree, hbytes, hrb, fun _ => hmark, hflag⟩

/-- What a host operation other than FEED and RESET can change: it works on the registry, the handshake, the trace, the mark or
the result, and on no register of the parser and no byte of RB. -/
theorem exec_leaves_parser {i : Instr} {s t : State} (hrec : i.isRecord = true) (hfeed : ∀ c now, i ≠ .feed c now)
    (hreset : i ≠ .reset) (h : exec i s = .next t) :
    t = { s with reg := t.reg, inHandler := t.inHandler, trace := t.trace, refusals := t.refusals, result := t.result } := by
  cases i with
  | feed c now => exact absurd rfl (hfeed c now)
  | register id f =>
    obtain ⟨-, rfl⟩ | ⟨-, rfl⟩ := execRegister_cases h
    · rfl
    · rfl
  | send id n payload =>
    obtain ⟨-, rfl⟩ | ⟨-, rfl⟩ := execSend_cases h
    · rfl
    · rfl
  | handlerReturn =>
    obtain ⟨-, rfl⟩ | ⟨-, rfl⟩ := execHandlerReturn_cases h
    · rfl
    · rfl
  | reset => exact absurd rfl hreset
  | statusRead | reserved110 | reserved111 =>
    cases h
    rfl
  | _ => cases hrec

/-- Settles O55: a FEED writes RB at `cnt` or not at all (`rbByte_of_feed`), and the other operations leave it alone. -/
theorem onlyPayloadBytesWriteTheBuffer : Obligations.OnlyPayloadBytesWriteTheBuffer := by
  intro i s t hrec hreset h
  by_cases hfeed : ∃ c now, i = .feed c now
  · obtain ⟨c, now, rfl⟩ := hfeed
    refine ⟨fun a ha => (rbByte_of_feed h a).resolve_right fun hw => ha hw.1, fun a hne => ?_⟩
    obtain ⟨ha, hs, hin, hc⟩ := (rbByte_of_feed h a).resolve_left hne
    exact ⟨ha, hs, c, now, rfl, hin, hc⟩
  · have hsame : ∀ a, rbByte t a = rbByte s a := by
      have hleaves := exec_leaves_parser hrec (by simpa using hfeed) hreset h
      exact rbByte_of_rb (by rw [hleaves])
    exact ⟨fun a _ => hsame a, fun a hne => absurd (hsame a) hne⟩

/-- The transitions of the parser (10_state.md R20). -/
theorem st_of_move {c : Byte} {s t : State} (hm : ParserMove c s t) :
    (s.st = .awaitingStart ∧ (t.st = .awaitingStart ∨ t.st = .awaitingCommand))
      ∨ (s.st = .awaitingCommand ∧ (t.st = .awaitingCommand ∨ t.st = .awaitingLength))
      ∨ (s.st = .awaitingLength
          ∧ (t.st = .awaitingEnd ∨ t.st = .awaitingPayload ∨ (t.st = .awaitingStart ∧ s.cfg.lenPolicy = .reject)))
      ∨ (s.st = .awaitingPayload ∧ (t.st = .awaitingPayload ∨ t.st = .awaitingEnd))
      ∨ (s.st = .awaitingEnd ∧ (t.st = .awaitingStart ∨ t.st = .awaitingCommand)) := by
  cases hm with
  | start hs | ignore hs | cmdByte hs | cmdFirst hs | cmdSecond hs | lenZero hs | lenStored hs | lenClamped hs | etx hs
  | resync hs | abort hs => simp [hs]
  | lenRejected hs hl hp => simp [hs, hp]
  | payload hs hl =>
    by_cases hfull : s.cnt + 1#8 = s.len
    · simp [hs, hfull]
    · simp [hs, hfull]

/-- Settles O53: an admitted FEED makes a move from the state that the staleness check left (`st_of_move`), and the other
operations leave `st` alone. -/
theorem parserMovesOnlyAlongItsTransitions : Obligations.ParserMovesOnlyAlongItsTransitions := by
  refine ⟨fun s t c now hh h => ?feed, fun i s t hrec hfeed hreset h => ?other⟩
  case feed =>
    have hm : ParserMove c (stamp now (staleReset now s)) t := parseByte_move ((execFeed_admitted c now hh).symm.trans h)
    simpa using st_of_move hm
  case other => rw [exec_leaves_parser hrec hfeed hreset h]

/-- Settles O56: by induction on the bytes. In `AwaitingStart` no byte is late, and one that is not STX is ignored but for its
clock sample. -/
theorem bytesWithoutStxNeverLeaveAwaitingStart : Obligations.BytesWithoutStxNeverLeaveAwaitingStart := by
  intro bytes
  induction bytes with
  | nil => exact fun s _ _ _ => ⟨s.lastT, rfl⟩
  | cons b bytes ih =>
    intro s hh hs hbytes
    obtain ⟨hb, hrest⟩ := List.forall_mem_cons.1 hbytes
    have hfeed : exec (.feed b.1 b.2) s = .next (stamp b.2 s) :=
      exec_feed_of_move (takesByteInTime_of_awaitingStart b.2 hh hs) (.ignore hs hb)
    obtain ⟨last, hlast⟩ := ih (stamp b.2 s) hh hs hrest
    refine ⟨last, ?_⟩
    rw [feeds, List.map_cons, runOps, hfeed, andThen_next]
    exact hlast

end Sys2Proof.Proofs

/-! ### The trace, `too_large` and the registry under every operation (10_state.md R27, R28, R30) -/

namespace Sys2Proof.Proofs

open Sys2Proof Sys2Proof.Machine Sys2Proof.Laws

/-- The trace, `too_large` and the registry of a state. -/
structure HostView where
  trace    : List Event
  tooLarge : Bool
  reg      : List (Nat × HandlerId)

def hostView (s : State) : HostView := ⟨s.trace, s.tooLarge, s.reg⟩

/-- What the operation `i`, of any kind but RESET, does to the trace, to `too_large` and to the registry. -/
inductive Effect (i : Instr) (v v' : HostView) : Prop
  /-- nothing -/
  | silent (htrace : v'.trace = v.trace) (hflag : v'.tooLarge = v.tooLarge) (hreg : v'.reg = v.reg)
  /-- a LEN byte above CAP (40_parser.md R74) -/
  | tooLarge (b : Byte) (htrace : v'.trace = v.trace ++ [.tooLarge b]) (hflag : v'.tooLarge = true)
      (hreg : v'.reg = v.reg)
  /-- a frame dispatched or sent (41_dispatch.md R84, 42_encoder.md R93) -/
  | event (e : Event) (hother : ∀ b, e ≠ .tooLarge b) (htrace : v'.trace = v.trace ++ [e])
      (hflag : v'.tooLarge = v.tooLarge) (hreg : v'.reg = v.reg)
  /-- a handler registered (41_dispatch.md R90) -/
  | registered (id : CmdId) (f : HandlerId) (hi : i = .register id f) (htrace : v'.trace = v.trace)
      (hflag : v'.tooLarge = v.tooLarge) (hreg : v'.reg = Table.insert (regKey id) f v.reg)

theorem effect_execDispatch (i : Instr) {cmd : CmdId} {n : Byte} {s u : State} (h : execDispatch cmd n s = .next u) :
    Effect i (hostView s) (hostView u) := by
  obtain ⟨-, ⟨f, -, rfl⟩ | ⟨f, -, -, rfl⟩ | ⟨-, -, rfl⟩⟩ := execDispatch_cases h
  · exact .event _ (by simp) rfl rfl rfl
  · exact .event _ (by simp) rfl rfl rfl
  · exact .silent rfl rfl rfl

/-- The clear after DISPATCH has no effect of its own. -/
theorem effect_of_move (i : Instr) {c : Byte} {s t : State} (hm : ParserMove c s t) :
    Effect i (hostView s) (hostView t) := by
  cases hm with
  | lenClamped | lenRejected => exact .tooLarge c rfl rfl rfl
  | etx hs hc u hu => exact (effect_execDispatch i hu :)
  | _ => exact .silent rfl rfl rfl

/-- Every operation but RESET: a record of the host, a row of the parser, or DISPATCH. -/
theorem effect_of_exec {i : Instr} {s t : State} (hreset : i ≠ .reset) (h : exec i s = .next t) :
    Effect i (hostView s) (hostView t) := by
  cases i with
  | feed c now =>
    obtain ⟨-, rfl⟩ | ⟨-, -, hm⟩ | ⟨-, -, hm⟩ := execFeed_cases h
    · exact .silent rfl rfl rfl
    · exact (effect_of_move _ hm :)
    · exact (effect_of_move _ hm :)
  | register id f =>
    obtain ⟨-, rfl⟩ | ⟨-, rfl⟩ := execRegister_cases h
    · exact .silent rfl rfl rfl
    · exact .registered id f rfl rfl rfl rfl
  | send id n payload =>
    obtain ⟨-, rfl⟩ | ⟨-, rfl⟩ := execSend_cases h
    · exact .silent rfl rfl rfl
    · exact .event _ (by simp) rfl rfl rfl
  | handlerReturn =>
    obtain ⟨-, rfl⟩ | ⟨-, rfl⟩ := execHandlerReturn_cases h
    · exact .silent rfl rfl rfl
    · exact .silent rfl rfl rfl
  | reset => exact absurd rfl hreset
  | feedCmdChar c =>
    obtain ⟨-, rfl⟩ | ⟨-, rfl⟩ := execFeedCmdChar_cases h
    · exact .silent rfl rfl rfl
    · exact .silent rfl rfl rfl
  | feedLenTooLarge c =>
    obtain ⟨-, rfl⟩ | ⟨-, rfl⟩ := execFeedLenTooLarge_cases h
    · exact .tooLarge c rfl rfl rfl
    · exact .tooLarge c rfl rfl rfl
  | feedPayloadByte c =>
    obtain ⟨-, rfl⟩ := execFeedPayloadByte_cases h
    exact .silent rfl rfl rfl
  | feedEnd =>
    obtain ⟨u, hu, ht⟩ := andThen_eq_next h
    cases ht
    exact (effect_execDispatch _ hu :)
  | dispatch cmd n => exact effect_execDispatch _ h
  | statusRead | reserved110 | reserved111 | feedStart | feedIgnore | feedCmdByte | feedLenZero | feedLenMax
  | feedLenSmall | feedResync | feedEndAbort =>
    cases h
    exact .silent rfl rfl rfl

/-- Settles O50: each effect adds at most one event (`effect_of_exec`), and RESET keeps the trace. -/
theorem traceGrowsByAtMostOneEvent : Obligations.TraceGrowsByAtMostOneEvent := by
  intro i s t h
  by_cases hreset : i = .reset
  · subst hreset
    cases h
    exact .inl rfl
  · cases effect_of_exec hreset h with
    | silent htrace => exact .inl htrace
    | tooLarge b htrace => exact .inr ⟨_, htrace⟩
    | event e _ htrace => exact .inr ⟨e, htrace⟩
    | registered id f _ htrace => exact .inl htrace

/-- Settles O51: `too_large` is set by the effect that emits TooLarge, and is kept by the others, which emit none. -/
theorem tooLargeIsStickyUntilReset : Obligations.TooLargeIsStickyUntilReset := by
  intro i s t h hreset
  have hkept : t.tooLarge = s.tooLarge → (∀ v, t.trace ≠ s.trace ++ [.tooLarge v]) →
      (t.tooLarge = true ↔ s.tooLarge = true ∨ ∃ v, t.trace = s.trace ++ [.tooLarge v]) := fun hflag hno => by
    rw [hflag, or_iff_left (not_exists.2 hno)]
  have hsilent : t.trace = s.trace → ∀ v, t.trace ≠ s.trace ++ [.tooLarge v] := fun htrace v => by simp [htrace]
  cases effect_of_exec hreset h with
  | silent htrace hflag => exact hkept hflag (hsilent htrace)
  | tooLarge b htrace hflag => exact ⟨fun _ => .inr ⟨b, htrace⟩, fun _ => hflag⟩
  | event e hother htrace hflag =>
    exact hkept hflag fun v hv => hother v (List.singleton_inj.1 (List.append_cancel_left (htrace.symm.trans hv)))
  | registered id f _ htrace hflag => exact hkept hflag (hsilent htrace)

/-- A lookup that succeeds still does so after an insertion under any key. -/
theorem exists_lookup_insert {t : List (Nat × HandlerId)} {a : Nat} {f : HandlerId} (h : Table.lookup t a = some f)
    (k : Nat) (g : HandlerId) : ∃ f', Table.lookup (Table.insert k g t) a = some f' := by
  by_cases hk : a = k
  · subst hk
    exact ⟨g, lookup_insert_same t a g⟩
  · exact ⟨f, (lookup_insert_other t g hk).trans h⟩

/-- Settles O54: of the effects only `registered` writes the registry, and an insertion removes no entry. -/
theorem onlyRegisterAndResetWriteTheRegistry : Obligations.OnlyRegisterAndResetWriteTheRegistry := by
  intro i s t h hreset
  have hsame : t.reg = s.reg → ((∀ id f, i ≠ .register id f) → t.reg = s.reg)
      ∧ ∀ id f, regLookup s id = some f → ∃ f', regLookup t id = some f' := fun hreg =>
    ⟨fun _ => hreg, fun id f hl => ⟨f, by rw [regLookup, hreg]; exact hl⟩⟩
  cases effect_of_exec hreset h with
  | silent _ _ hreg => exact hsame hreg
  | tooLarge _ _ _ hreg => exact hsame hreg
  | event _ _ _ _ hreg => exact hsame hreg
  | registered id f hi _ _ hreg =>
    refine ⟨fun hne => absurd hi (hne id f), fun id' f' hl => ?_⟩
    have hreg' : t.reg = Table.insert (regKey id) f s.reg := hreg
    rw [regLookup, hreg']
    exact exists_lookup_insert hl (regKey id) f

end Sys2Proof.Proofs

/-! ### Further rules of DISPATCH, REGISTER and the reserved selectors (20_memory.md R36, R43; 41_dispatch.md R91) -/

namespace Sys2Proof.Proofs

open Sys2Proof Sys2Proof.Machine Sys2Proof.Laws

/-- Settles O36: DISPATCH begins with the read of its `n` bytes at index 0, which faults. -/
theorem dispatchBeyondTheBufferFaults : Obligations.DispatchBeyondTheBufferFaults := by
  intro s cmd n hn
  have hread : memRead 0 n.toNat s = .error (.bufferIndex n.toNat) := by
    have h := memRead_of_gt (a := 0) (n := n.toNat) (s := s) (by omega)
    rwa [Nat.zero_add] at h
  simp only [exec, execDispatch, hread]

theorem insert_insert_same {α : Type} (t : List (Nat × α)) (k : Nat) (v : α) :
    Table.insert k v (Table.insert k v t) = Table.insert k v t := by
  induction t with
  | nil => simp [Table.insert]
  | cons e t ih =>
    obtain ⟨k', v'⟩ := e
    by_cases hlt : k < k'
    · simp [Table.insert, hlt]
    by_cases heq : k = k'
    · simp [Table.insert, heq]
    · simp [Table.insert, hlt, heq, ih]

/-- Settles O38: an admitted REGISTER is one insertion, and inserting the same pair again changes nothing. -/
theorem registerIsIdempotent : Obligations.RegisterIsIdempotent := by
  intro s t id f hh h
  cases (execRegister_of_idle id f hh).symm.trans h
  have hsame : regWrite id f (regWrite id f s) = regWrite id f s := by
    simp only [regWrite, insert_insert_same]
  have hagain := execRegister_of_idle (s := regWrite id f s) id f hh
  rwa [hsame] at hagain

/-- Settles O39: a Dispatch carries the register `cmd` of a full frame (`onlyEtxDispatchesTheFrame`), which the invariant says
is folded. -/
theorem unfoldedIdentifierIsNeverDispatched : Obligations.UnfoldedIdentifierIsNeverDispatched := by
  intro s t c now kind f id n p hi hw hunfolded h htrace
  obtain ⟨-, -, honly⟩ := onlyEtxDispatchesTheFrame
  obtain ⟨-, hs, hcmd, -⟩ := honly _ s t kind f id n p rfl h htrace
  subst hcmd
  obtain ⟨hfirst, hsecond⟩ := hi.cmd_folded (.inr (.inr hs)) hw
  obtain hne | hne := hunfolded
  · exact hne hfirst
  · exact hne hsecond

/-- Settles O47: both operations are `refuse .reservedOp` by definition. -/
theorem reservedSelectorsAreRefused : Obligations.ReservedSelectorsAreRefused := fun _ => ⟨rfl, rfl⟩

end Sys2Proof.Proofs

/-! ### Handler identities are abstract (00_scope.md R9) -/

namespace Sys2Proof.Proofs

open Sys2Proof Sys2Proof.Machine Sys2Proof.Laws

/-- Registries with the same keys in the same order, whose handlers correspond by `R`. -/
abbrev SameRegistry (R : HandlerId → HandlerId → Prop) : List (Nat × HandlerId) → List (Nat × HandlerId) → Prop :=
  List.Forall₂ fun e e' => e.1 = e'.1 ∧ R e.2 e'.2

/-- The state with another registry and another history of events. -/
def withHandlers (reg : List (Nat × HandlerId)) (es : List Event) (s : State) : State := { s with reg := reg, trace := es }

variable {R : HandlerId → HandlerId → Prop}

/-- The states that are the same as `s` up to handlers are `s` with another registry and another trace. -/
theorem sameUpToHandlers_iff {s s' : State} :
    s.sameUpToHandlers R s' ↔ ∃ reg es, s' = withHandlers reg es s ∧ SameRegistry R s.reg reg
      ∧ List.Forall₂ (Event.sameUpToHandler R) s.trace es := by
  constructor
  · rintro ⟨hsame, hreg, htrace⟩
    exact ⟨s'.reg, s'.trace, by rw [← hsame]; rfl, hreg, htrace⟩
  · rintro ⟨reg, es, rfl, hreg, htrace⟩
    exact ⟨rfl, hreg, htrace⟩

/-- Lookups in corresponding registries both fail, or find handlers that correspond. -/
theorem lookup_sameRegistry {t t' : List (Nat × HandlerId)} (h : SameRegistry R t t') (k : Nat) :
    (Table.lookup t k = none ∧ Table.lookup t' k = none)
      ∨ ∃ f f', Table.lookup t k = some f ∧ Table.lookup t' k = some f' ∧ R f f' := by
  induction h with
  | nil => exact .inl ⟨rfl, rfl⟩
  | @cons e e' t t' he _ ih =>
    obtain ⟨hk, hf⟩ := he
    simp only [Table.lookup, ← hk]
    split
    · exact .inr ⟨_, _, rfl, rfl, hf⟩
    · exact ih

theorem insert_sameRegistry {t t' : List (Nat × HandlerId)} {f f' : HandlerId} (h : SameRegistry R t t') (k : Nat)
    (hf : R f f') : SameRegistry R (Table.insert k f t) (Table.insert k f' t') := by
  induction h with
  | nil => exact .cons ⟨rfl, hf⟩ .nil
  | @cons e e' t t' he hrest ih =>
    obtain ⟨k₁, f₁⟩ := e
    obtain ⟨k₂, f₂⟩ := e'
    obtain ⟨rfl, hf₁⟩ : k₁ = k₂ ∧ R f₁ f₂ := he
    simp only [Table.insert]
    split
    · exact .cons ⟨rfl, hf⟩ (.cons ⟨rfl, hf₁⟩ hrest)
    split
    · exact .cons ⟨rfl, hf⟩ hrest
    · exact .cons ⟨rfl, hf₁⟩ ih

theorem sameOutcome_of_next {Q : State → State → Prop} {r r' : Result} {t t' : State} (h : r = .next t)
    (h' : r' = .next t') (hQ : Q t t') : sameOutcome Q r r' := by
  subst h h'
  exact hQ

theorem sameOutcome_of_fault {Q : State → State → Prop} {r r' : Result} {e : Fault} (h : r = .fault e)
    (h' : r' = .fault e) : sameOutcome Q r r' := by
  subst h h'
  rfl

theorem sameOutcome_andThen {Q : State → State → Prop} {r r' : Result} {f : State → Result} (h : sameOutcome Q r r')
    (hf : ∀ t t', Q t t' → sameOutcome Q (f t) (f t')) : sameOutcome Q (andThen r f) (andThen r' f) := by
  cases r with
  | next t =>
    cases r' with
    | next t' => exact hf t t' h
    | _ => exact h.elim
  | fault e =>
    cases r' with
    | fault e' => exact h
    | _ => exact h.elim
  | refused e =>
    cases r' with
    | refused e' => exact h
    | _ => exact h.elim

section

variable {s : State} {reg : List (Nat × HandlerId)} {es : List Event} (hreg : SameRegistry R s.reg reg)
  (htrace : List.Forall₂ (Event.sameUpToHandler R) s.trace es)

include htrace in
/-- The traces still correspond after a further event of each. -/
theorem sameTrace_concat {e e' : Event} (he : e.sameUpToHandler R e') :
    List.Forall₂ (Event.sameUpToHandler R) (s.trace ++ [e]) (es ++ [e']) :=
  List.rel_append htrace (.cons he .nil)

include hreg htrace

/-- DISPATCH finds corresponding handlers, by the same kind of match (41_dispatch.md R84). -/
theorem sameOutcome_execDispatch (cmd : CmdId) (n : Byte) :
    sameOutcome (State.sameUpToHandlers R) (execDispatch cmd n s) (execDispatch cmd n (withHandlers reg es s)) := by
  obtain hn | hn := Nat.lt_or_ge s.cfg.cap n.toNat
  · exact sameOutcome_of_fault (dispatchBeyondTheBufferFaults s cmd n hn)
      (dispatchBeyondTheBufferFaults (withHandlers reg es s) cmd n hn)
  obtain ⟨hc, hc'⟩ | ⟨f, f', hc, hc', hf⟩ := lookup_sameRegistry hreg (regKey cmd)
  · obtain ⟨hi, hi'⟩ | ⟨f, f', hi, hi', hf⟩ := lookup_sameRegistry hreg (regKey s.cfg.invalidCmd)
    · exact sameOutcome_of_next (execDispatch_of_unregistered hn hc hi)
        (execDispatch_of_unregistered (s := withHandlers reg es s) hn hc' hi') ⟨rfl, hreg, htrace⟩
    · exact sameOutcome_of_next (execDispatch_of_fallback hn hc hi)
        (execDispatch_of_fallback (s := withHandlers reg es s) hn hc' hi')
        ⟨rfl, hreg, sameTrace_concat htrace ⟨rfl, hf, rfl, rfl, rfl⟩⟩
  · exact sameOutcome_of_next (execDispatch_of_exact hn hc)
      (execDispatch_of_exact (s := withHandlers reg es s) hn hc')
      ⟨rfl, hreg, sameTrace_concat htrace ⟨rfl, hf, rfl, rfl, rfl⟩⟩

/-- A row of the parser: none but END reaches the registry, and that by DISPATCH. -/
theorem sameOutcome_exec_row {i : Instr} (hrow : i.isRow = true) :
    sameOutcome (State.sameUpToHandlers R) (exec i s) (exec i (withHandlers reg es s)) := by
  cases i with
  | feedCmdChar c =>
    obtain hx | hx := BitVec.eq_zero_or_eq_one s.cmdIdx
    · exact sameOutcome_of_next (execFeedCmdChar_first c hx)
        (execFeedCmdChar_first (s := withHandlers reg es s) c hx) ⟨rfl, hreg, htrace⟩
    · exact sameOutcome_of_next (execFeedCmdChar_second c hx)
        (execFeedCmdChar_second (s := withHandlers reg es s) c hx) ⟨rfl, hreg, htrace⟩
  | feedLenTooLarge c =>
    cases hp : s.cfg.lenPolicy with
    | clamp =>
      exact sameOutcome_of_next (execFeedLenTooLarge_clamp c hp)
        (execFeedLenTooLarge_clamp (s := withHandlers reg es s) c hp) ⟨rfl, hreg, sameTrace_concat htrace rfl⟩
    | reject =>
      exact sameOutcome_of_next (execFeedLenTooLarge_reject c hp)
        (execFeedLenTooLarge_reject (s := withHandlers reg es s) c hp) ⟨rfl, hreg, sameTrace_concat htrace rfl⟩
  | feedPayloadByte c =>
    obtain hl | hl := Nat.lt_or_ge s.cnt.toNat s.cfg.cap
    · exact sameOutcome_of_next (execFeedPayloadByte_of_lt hl)
        (execFeedPayloadByte_of_lt (s := withHandlers reg es s) hl) ⟨rfl, hreg, htrace⟩
    · exact sameOutcome_of_fault (execFeedPayloadByte_of_ge c hl)
        (execFeedPayloadByte_of_ge (s := withHandlers reg es s) c hl)
  | feedEnd =>
    refine sameOutcome_andThen (sameOutcome_execDispatch hreg htrace s.cmd s.len) ?_
    rintro t t' ⟨hsame, hreg, htrace⟩
    exact ⟨congrArg (fun u => setSt .awaitingStart (clearFrame u)) hsame, hreg, htrace⟩
  | feedStart | feedIgnore | feedCmdByte | feedLenZero | feedLenMax | feedLenSmall | feedResync | feedEndAbort =>
    exact ⟨rfl, hreg, htrace⟩
  | _ => cases hrow

/-- The byte rules choose their row by the configuration, `st` and the byte (`rowOf`). -/
theorem sameOutcome_parseByte (c : Byte) :
    sameOutcome (State.sameUpToHandlers R) (parseByte c s) (parseByte c (withHandlers reg es s)) := by
  cases hrow : rowOf s.cfg s.st c with
  | none =>
    obtain ⟨k, hk⟩ := rowOf_eq_none_iff.1 hrow
    exact sameOutcome_of_fault (parseByte_notState c hk) (parseByte_notState (s := withHandlers reg es s) c hk)
  | some i =>
    obtain ⟨hi, -⟩ := wf_of_rowOf hrow
    rw [parseByte_of_rowOf rfl hrow, parseByte_of_rowOf (s := withHandlers reg es s) rfl hrow]
    exact sameOutcome_exec_row hreg htrace hi

/-- FEED: neither admission nor the staleness check reads a handler. -/
theorem sameOutcome_execFeed (c : Byte) (now : Nat) :
    sameOutcome (State.sameUpToHandlers R) (execFeed c now s) (execFeed c now (withHandlers reg es s)) := by
  cases hh : s.inHandler with
  | true =>
    exact sameOutcome_of_next (execFeed_in_handler c now hh)
      (execFeed_in_handler (s := withHandlers reg es s) c now hh) ⟨rfl, hreg, htrace⟩
  | false =>
    rw [execFeed_admitted c now hh, execFeed_admitted (s := withHandlers reg es s) c now hh]
    obtain ⟨hstale, hsame⟩ | ⟨hstale, hclear⟩ := staleReset_cases now s
    · rw [hsame, staleReset_of_not_stale (s := withHandlers reg es s) hstale]
      exact sameOutcome_parseByte (s := stamp now s) hreg htrace c
    · rw [hclear, staleReset_of_stale (s := withHandlers reg es s) hstale]
      exact sameOutcome_parseByte (s := stamp now (setSt .awaitingStart (clearFrame s))) hreg htrace c

/-- REGISTER of corresponding handlers. -/
theorem sameOutcome_execRegister (id : CmdId) {f f' : HandlerId} (hf : R f f') :
    sameOutcome (State.sameUpToHandlers R) (execRegister id f s) (execRegister id f' (withHandlers reg es s)) := by
  cases hh : s.inHandler with
  | true =>
    exact sameOutcome_of_next (execRegister_in_handler id f hh)
      (execRegister_in_handler (s := withHandlers reg es s) id f' hh) ⟨rfl, hreg, htrace⟩
  | false =>
    exact sameOutcome_of_next (execRegister_of_idle id f hh)
      (execRegister_of_idle (s := withHandlers reg es s) id f' hh) ⟨rfl, insert_sameRegistry hreg _ hf, htrace⟩

theorem sameOutcome_execSend (id : CmdId) (n : Nat) (payload : Option (List Byte)) :
    sameOutcome (State.sameUpToHandlers R) (execSend id n payload s) (execSend id n payload (withHandlers reg es s)) := by
  obtain hlen | hlen := Nat.lt_or_ge (suppliedBytes payload).length (sendLength s.cfg n payload)
  · exact sameOutcome_of_next (execSend_of_short hlen) (execSend_of_short (s := withHandlers reg es s) hlen)
      ⟨rfl, hreg, htrace⟩
  · exact sameOutcome_of_next (execSend_of_le hlen) (execSend_of_le (s := withHandlers reg es s) hlen)
      ⟨rfl, hreg, sameTrace_concat htrace rfl⟩

theorem sameOutcome_execHandlerReturn :
    sameOutcome (State.sameUpToHandlers R) (execHandlerReturn s) (execHandlerReturn (withHandlers reg es s)) := by
  cases hh : s.inHandler with
  | true =>
    exact sameOutcome_of_next (execHandlerReturn_in_handler hh)
      (execHandlerReturn_in_handler (s := withHandlers reg es s) hh) ⟨rfl, hreg, htrace⟩
  | false =>
    exact sameOutcome_of_next (execHandlerReturn_of_idle hh)
      (execHandlerReturn_of_idle (s := withHandlers reg es s) hh) ⟨rfl, hreg, htrace⟩

/-- Every operation that names no handler. -/
theorem sameOutcome_exec {i : Instr} (hi : ∀ id f, i ≠ .register id f) :
    sameOutcome (State.sameUpToHandlers R) (exec i s) (exec i (withHandlers reg es s)) := by
  cases i with
  | feed c now => exact sameOutcome_execFeed hreg htrace c now
  | register id f => exact absurd rfl (hi id f)
  | send id n payload => exact sameOutcome_execSend hreg htrace id n payload
  | handlerReturn => exact sameOutcome_execHandlerReturn hreg htrace
  | reset => exact ⟨rfl, .nil, htrace⟩
  | statusRead | reserved110 | reserved111 => exact ⟨rfl, hreg, htrace⟩
  | dispatch cmd n => exact sameOutcome_execDispatch hreg htrace cmd n
  | _ => exact sameOutcome_exec_row hreg htrace rfl

end

/-- Settles O59: related states are one state with two registries and two traces. Of what an operation reads, only a lookup
depends on them, and it finds corresponding handlers (`lookup_sameRegistry`). -/
theorem handlerIdentitiesAreAbstract : Obligations.HandlerIdentitiesAreAbstract := by
  intro R i i' s s' hs hi
  obtain ⟨reg, es, rfl, hreg, htrace⟩ := sameUpToHandlers_iff.1 hs
  obtain ⟨rfl, hnone⟩ | ⟨id, f, f', hf, rfl, rfl⟩ := hi
  · exact sameOutcome_exec hreg htrace hnone
  · exact sameOutcome_execRegister hreg htrace id hf

end Sys2Proof.Proofs
